-- ==== Sys2Proof/Word.lean ====
section
/-! DEFINITION. The word types of the machine (spec/00_scope.md R8, R9; spec/10_state.md R20, R22, R24). Every value of this
machine is an unsigned integer of a stated width (R8). -/

namespace Sys2Proof

/-- An 8-bit value: a general register, a memory byte, a timer (R20, R27, R32). -/
abbrev Byte := BitVec 8

/-- A 16-bit value: an opcode, the program counter, the index register, a stack entry (R22, R24, R26, R30). -/
abbrev Word := BitVec 16

/-- A 4-bit opcode nibble (R9, R81). -/
abbrev Nibble := BitVec 4

/-- The number of a general register, the x or y field of an opcode (R82). -/
abbrev RegId := BitVec 4

/-- A 12-bit address of `ram`, 0x000 to 0xFFF (R50); no other address exists. -/
abbrev Addr := BitVec 12

/-- The number of a key, 0 to 15 (R163). -/
abbrev Key := BitVec 4

end Sys2Proof
end

