-- ==== Sys2Proof/Config.lean ====
section
/-! DEFINITION. What the spec leaves OPEN: the four inputs the environment chooses and the parameter `FONT`
(spec/92_eei_decisions.md, head: "Parameters left OPEN (a model takes them as parameters, not constants)"; D16, D18, D28, D29).
Each is a constant with no body, so no proof can use a value of it: a theorem holds for every environment and every font.
The argument `turn` of an input is `State.turn`, which counts the host's turns (notes/assumptions/1.md to 3.md, 5.md). -/

namespace Sys2Proof

/-- The input `keys` the host presents at its turn: bit k is 1 when key k is pressed (R163, R203, U2). Free value. -/
opaque Config.keys : (turn : Nat) → BitVec 16

/-- The input `key_event` the host presents at its turn (R163, R203, U3). Free value. -/
opaque Config.keyEvent : (turn : Nat) → Option Key

/-- The input `rnd` the host presents at its turn (R123, R203, U1). Free value. -/
opaque Config.rnd : (turn : Nat) → Byte

/-- How many times the host issues `tick_timers` between the step before and the step of its turn (R174, R211, U6). Free value. -/
opaque Config.ticks : (turn : Nat) → Nat

/-- The parameter `FONT : byte[80]` (R52, D28, U5). -/
opaque Config.font : Fin 80 → Byte

/-- The default of `FONT`, the table of R52 [from general knowledge, says R52]: one line per glyph. No definition of the model
uses it; a statement about drawn digits names it as the `FONT` it assumes (D28). -/
def Config.defaultFont : List Byte :=
  [0xF0, 0x90, 0x90, 0x90, 0xF0,
   0x20, 0x60, 0x20, 0x20, 0x70,
   0xF0, 0x10, 0xF0, 0x80, 0xF0,
   0xF0, 0x10, 0xF0, 0x10, 0xF0,
   0x90, 0x90, 0xF0, 0x10, 0x10,
   0xF0, 0x80, 0xF0, 0x10, 0xF0,
   0xF0, 0x80, 0xF0, 0x90, 0xF0,
   0xF0, 0x10, 0x20, 0x40, 0x40] ++
  [0xF0, 0x90, 0xF0, 0x90, 0xF0,
   0xF0, 0x90, 0xF0, 0x10, 0xF0,
   0xF0, 0x90, 0xF0, 0x90, 0x90,
   0xE0, 0x90, 0xE0, 0x90, 0xE0,
   0xF0, 0x80, 0x80, 0x80, 0xF0,
   0xE0, 0x90, 0x90, 0x90, 0xE0,
   0xF0, 0x80, 0xF0, 0x80, 0xF0,
   0xF0, 0x80, 0xF0, 0x80, 0x80]

/-- The machine's `FONT` is the default table: a hypothesis for statements about the shapes of digits. -/
abbrev Config.FontIsDefault : Prop := ∀ j : Fin 80, Config.font j = Config.defaultFont.getD j.val 0

end Sys2Proof
end

