-- ==== Sys2Proof/Syntax.lean ====
section
/-! DEFINITION. The instruction set: one constructor per row of spec/opcode_table.json, in the table's order (spec/30_encoding.md
R84). The operands are the fields the row's format names (R81, R82). -/

namespace Sys2Proof

/-- The 35 instructions of R84. -/
inductive Instr where
  /-- `00E0` CLS (R151). -/
  | cls
  /-- `00EE` RET (R100). -/
  | ret
  /-- `0NNN` SYS nnn (R101); nnn is kept as syntax and ignored by the meaning. -/
  | sys (nnn : Addr)
  /-- `1NNN` JP nnn (R102). -/
  | jp (nnn : Addr)
  /-- `2NNN` CALL nnn (R103). -/
  | call (nnn : Addr)
  /-- `3XNN` SE Vx, nn (R110). -/
  | seImm (x : RegId) (nn : Byte)
  /-- `4XNN` SNE Vx, nn (R111). -/
  | sneImm (x : RegId) (nn : Byte)
  /-- `5XY0` SE Vx, Vy (R112). -/
  | seReg (x y : RegId)
  /-- `6XNN` LD Vx, nn (R120). -/
  | ldImm (x : RegId) (nn : Byte)
  /-- `7XNN` ADD Vx, nn (R121). -/
  | addImm (x : RegId) (nn : Byte)
  /-- `8XY0` LD Vx, Vy (R132). -/
  | ldReg (x y : RegId)
  /-- `8XY1` OR Vx, Vy (R133). -/
  | orReg (x y : RegId)
  /-- `8XY2` AND Vx, Vy (R134). -/
  | andReg (x y : RegId)
  /-- `8XY3` XOR Vx, Vy (R135). -/
  | xorReg (x y : RegId)
  /-- `8XY4` ADD Vx, Vy (R136). -/
  | addReg (x y : RegId)
  /-- `8XY5` SUB Vx, Vy (R137). -/
  | subReg (x y : RegId)
  /-- `8XY6` SHR Vx (R138); y is kept as syntax and ignored by the meaning (R88). -/
  | shr (x y : RegId)
  /-- `8XY7` SUBN Vx, Vy (R139). -/
  | subn (x y : RegId)
  /-- `8XYE` SHL Vx (R140); y is kept as syntax and ignored by the meaning (R88). -/
  | shl (x y : RegId)
  /-- `9XY0` SNE Vx, Vy (R113). -/
  | sneReg (x y : RegId)
  /-- `ANNN` LD I, nnn (R122). -/
  | ldI (nnn : Addr)
  /-- `BNNN` JP V0, nnn (R104). -/
  | jpV0 (nnn : Addr)
  /-- `CXNN` RND Vx, nn (R123). -/
  | rnd (x : RegId) (nn : Byte)
  /-- `DXYN` DRW Vx, Vy, n (R153). -/
  | drw (x y : RegId) (n : Nibble)
  /-- `EX9E` SKP Vx (R160). -/
  | skp (x : RegId)
  /-- `EXA1` SKNP Vx (R161). -/
  | sknp (x : RegId)
  /-- `FX07` LD Vx, DT (R170). -/
  | ldVxDt (x : RegId)
  /-- `FX0A` LD Vx, K (R162). -/
  | ldVxK (x : RegId)
  /-- `FX15` LD DT, Vx (R171). -/
  | ldDtVx (x : RegId)
  /-- `FX18` LD ST, Vx (R172). -/
  | ldStVx (x : RegId)
  /-- `FX1E` ADD I, Vx (R181). -/
  | addI (x : RegId)
  /-- `FX29` LD F, Vx (R182). -/
  | ldF (x : RegId)
  /-- `FX33` LD B, Vx (R183). -/
  | ldB (x : RegId)
  /-- `FX55` LD [I], Vx (R184). -/
  | storeRegs (x : RegId)
  /-- `FX65` LD Vx, [I] (R185). -/
  | loadRegs (x : RegId)
  deriving DecidableEq, Repr

end Sys2Proof
end

