-- ==== Sys2Proof/Decode.lean ====
section
/-! DEFINITION. The decoder and the encoder (spec/30_encoding.md R80 to R92). Decoding is total: every 16-bit value is one of the
35 instructions or unrecognised (R83, R86). -/

namespace Sys2Proof

/-! ## The fields of an opcode (R81, R82) -/

/-- Nibble n0, bits 15 to 12: the major opcode. -/
def Word.n0 (op : Word) : Nibble := op.extractLsb' 12 4

/-- Nibble n1, bits 11 to 8. -/
def Word.n1 (op : Word) : Nibble := op.extractLsb' 8 4

/-- Nibble n2, bits 7 to 4. -/
def Word.n2 (op : Word) : Nibble := op.extractLsb' 4 4

/-- Nibble n3, bits 3 to 0. -/
def Word.n3 (op : Word) : Nibble := op.extractLsb' 0 4

/-- x = n1. -/
def Word.x (op : Word) : RegId := op.n1

/-- y = n2. -/
def Word.y (op : Word) : RegId := op.n2

/-- n = n3. -/
def Word.n (op : Word) : Nibble := op.n3

/-- nn = op[7:0]. -/
def Word.nn (op : Word) : Byte := op.extractLsb' 0 8

/-- nnn = op[11:0]. -/
def Word.nnn (op : Word) : Addr := op.extractLsb' 0 12

/-! ## The decoder (R83 to R86) -/

/-- The n0 = 0 group: `00E0` and `00EE` are tried before the catch-all `0NNN` (R83). -/
def decodeZero (op : Word) : Instr :=
  if op = 0x00E0#16 then .cls
  else if op = 0x00EE#16 then .ret
  else .sys op.nnn

/-- The 8XY group by its function digit n3 (R85). -/
def decodeAlu (x y : RegId) : Nibble → Option Instr
  | 0x0#4 => some (.ldReg x y)
  | 0x1#4 => some (.orReg x y)
  | 0x2#4 => some (.andReg x y)
  | 0x3#4 => some (.xorReg x y)
  | 0x4#4 => some (.addReg x y)
  | 0x5#4 => some (.subReg x y)
  | 0x6#4 => some (.shr x y)
  | 0x7#4 => some (.subn x y)
  | 0xE#4 => some (.shl x y)
  | _ => none

/-- The EX group by its function byte. -/
def decodeKey (x : RegId) : Byte → Option Instr
  | 0x9E#8 => some (.skp x)
  | 0xA1#8 => some (.sknp x)
  | _ => none

/-- The FX group by its function byte. -/
def decodeMisc (x : RegId) : Byte → Option Instr
  | 0x07#8 => some (.ldVxDt x)
  | 0x0A#8 => some (.ldVxK x)
  | 0x15#8 => some (.ldDtVx x)
  | 0x18#8 => some (.ldStVx x)
  | 0x1E#8 => some (.addI x)
  | 0x29#8 => some (.ldF x)
  | 0x33#8 => some (.ldB x)
  | 0x55#8 => some (.storeRegs x)
  | 0x65#8 => some (.loadRegs x)
  | _ => none

/-- The instruction an opcode stands for, or `none` where no row of R84 matches (R86). -/
def decodeWord (op : Word) : Option Instr :=
  match op.n0 with
  | 0x0#4 => some (decodeZero op)
  | 0x1#4 => some (.jp op.nnn)
  | 0x2#4 => some (.call op.nnn)
  | 0x3#4 => some (.seImm op.x op.nn)
  | 0x4#4 => some (.sneImm op.x op.nn)
  | 0x5#4 => if op.n3 = 0x0#4 then some (.seReg op.x op.y) else none
  | 0x6#4 => some (.ldImm op.x op.nn)
  | 0x7#4 => some (.addImm op.x op.nn)
  | 0x8#4 => decodeAlu op.x op.y op.n3
  | 0x9#4 => if op.n3 = 0x0#4 then some (.sneReg op.x op.y) else none
  | 0xA#4 => some (.ldI op.nnn)
  | 0xB#4 => some (.jpV0 op.nnn)
  | 0xC#4 => some (.rnd op.x op.nn)
  | 0xD#4 => some (.drw op.x op.y op.n)
  | 0xE#4 => decodeKey op.x op.nn
  | 0xF#4 => decodeMisc op.x op.nn
  | _ => none

/-- Why bytes are not an instruction. -/
inductive DecodeError where
  /-- No row of R84 matches the opcode (R86, R240): reported by the step, which goes on. Safe: it is the spec's own outcome. -/
  | unrecognizedOpcode (op : Word)
  /-- Fewer than two bytes are given, so there is no opcode (R80). The machine's fetch always gives two. Safe. -/
  | truncated
  deriving DecidableEq, Repr

/-- The two bytes of an opcode as they stand in memory, the lower address first (R55: big-endian). -/
def opcodeOfBytes (lower higher : Byte) : Word := lower ++ higher

/-- The instruction at the front of a byte string, with the bytes after it. -/
def decode : List Byte → Except DecodeError (Instr × List Byte)
  | lower :: higher :: rest =>
    match decodeWord (opcodeOfBytes lower higher) with
    | some i => .ok (i, rest)
    | none => .error (.unrecognizedOpcode (opcodeOfBytes lower higher))
  | _ => .error .truncated

/-! ## The encoder (R92) -/

/-- The bits of R84's `mask`: where the pattern of the instruction is fixed. -/
def Instr.mask : Instr → Word
  | .cls => 0xFFFF#16
  | .ret => 0xFFFF#16
  | .sys _ => 0xF000#16
  | .jp _ => 0xF000#16
  | .call _ => 0xF000#16
  | .seImm _ _ => 0xF000#16
  | .sneImm _ _ => 0xF000#16
  | .seReg _ _ => 0xF00F#16
  | .ldImm _ _ => 0xF000#16
  | .addImm _ _ => 0xF000#16
  | .ldReg _ _ => 0xF00F#16
  | .orReg _ _ => 0xF00F#16
  | .andReg _ _ => 0xF00F#16
  | .xorReg _ _ => 0xF00F#16
  | .addReg _ _ => 0xF00F#16
  | .subReg _ _ => 0xF00F#16
  | .shr _ _ => 0xF00F#16
  | .subn _ _ => 0xF00F#16
  | .shl _ _ => 0xF00F#16
  | .sneReg _ _ => 0xF00F#16
  | .ldI _ => 0xF000#16
  | .jpV0 _ => 0xF000#16
  | .rnd _ _ => 0xF000#16
  | .drw _ _ _ => 0xF000#16
  | .skp _ => 0xF0FF#16
  | .sknp _ => 0xF0FF#16
  | .ldVxDt _ => 0xF0FF#16
  | .ldVxK _ => 0xF0FF#16
  | .ldDtVx _ => 0xF0FF#16
  | .ldStVx _ => 0xF0FF#16
  | .addI _ => 0xF0FF#16
  | .ldF _ => 0xF0FF#16
  | .ldB _ => 0xF0FF#16
  | .storeRegs _ => 0xF0FF#16
  | .loadRegs _ => 0xF0FF#16

/-- R84's `match`: the fixed bits of the instruction's pattern. -/
def Instr.fixedBits : Instr → Word
  | .cls => 0x00E0#16
  | .ret => 0x00EE#16
  | .sys _ => 0x0000#16
  | .jp _ => 0x1000#16
  | .call _ => 0x2000#16
  | .seImm _ _ => 0x3000#16
  | .sneImm _ _ => 0x4000#16
  | .seReg _ _ => 0x5000#16
  | .ldImm _ _ => 0x6000#16
  | .addImm _ _ => 0x7000#16
  | .ldReg _ _ => 0x8000#16
  | .orReg _ _ => 0x8001#16
  | .andReg _ _ => 0x8002#16
  | .xorReg _ _ => 0x8003#16
  | .addReg _ _ => 0x8004#16
  | .subReg _ _ => 0x8005#16
  | .shr _ _ => 0x8006#16
  | .subn _ _ => 0x8007#16
  | .shl _ _ => 0x800E#16
  | .sneReg _ _ => 0x9000#16
  | .ldI _ => 0xA000#16
  | .jpV0 _ => 0xB000#16
  | .rnd _ _ => 0xC000#16
  | .drw _ _ _ => 0xD000#16
  | .skp _ => 0xE09E#16
  | .sknp _ => 0xE0A1#16
  | .ldVxDt _ => 0xF007#16
  | .ldVxK _ => 0xF00A#16
  | .ldDtVx _ => 0xF015#16
  | .ldStVx _ => 0xF018#16
  | .addI _ => 0xF01E#16
  | .ldF _ => 0xF029#16
  | .ldB _ => 0xF033#16
  | .storeRegs _ => 0xF055#16
  | .loadRegs _ => 0xF065#16

/-- A register number in the x field, bits 11 to 8. -/
def placeX (x : RegId) : Word := x.setWidth 16 <<< 8

/-- A register number in the y field, bits 7 to 4. -/
def placeY (y : RegId) : Word := y.setWidth 16 <<< 4

/-- A count in the n field, bits 3 to 0. -/
def placeN (n : Nibble) : Word := n.setWidth 16

/-- An immediate in the nn field, bits 7 to 0. -/
def placeNN (nn : Byte) : Word := nn.setWidth 16

/-- An address in the nnn field, bits 11 to 0. -/
def placeNNN (nnn : Addr) : Word := nnn.setWidth 16

/-- The operands at the places their format gives them (R81, R82); absent fields are zero (R92). -/
def Instr.operandBits : Instr → Word
  | .cls => 0#16
  | .ret => 0#16
  | .sys nnn => placeNNN nnn
  | .jp nnn => placeNNN nnn
  | .call nnn => placeNNN nnn
  | .seImm x nn => placeX x ||| placeNN nn
  | .sneImm x nn => placeX x ||| placeNN nn
  | .seReg x y => placeX x ||| placeY y
  | .ldImm x nn => placeX x ||| placeNN nn
  | .addImm x nn => placeX x ||| placeNN nn
  | .ldReg x y => placeX x ||| placeY y
  | .orReg x y => placeX x ||| placeY y
  | .andReg x y => placeX x ||| placeY y
  | .xorReg x y => placeX x ||| placeY y
  | .addReg x y => placeX x ||| placeY y
  | .subReg x y => placeX x ||| placeY y
  | .shr x y => placeX x ||| placeY y
  | .subn x y => placeX x ||| placeY y
  | .shl x y => placeX x ||| placeY y
  | .sneReg x y => placeX x ||| placeY y
  | .ldI nnn => placeNNN nnn
  | .jpV0 nnn => placeNNN nnn
  | .rnd x nn => placeX x ||| placeNN nn
  | .drw x y n => placeX x ||| placeY y ||| placeN n
  | .skp x => placeX x
  | .sknp x => placeX x
  | .ldVxDt x => placeX x
  | .ldVxK x => placeX x
  | .ldDtVx x => placeX x
  | .ldStVx x => placeX x
  | .addI x => placeX x
  | .ldF x => placeX x
  | .ldB x => placeX x
  | .storeRegs x => placeX x
  | .loadRegs x => placeX x

/-- The opcode of an instruction: its fixed bits and its operands (R92). -/
def encode (i : Instr) : Word := i.fixedBits ||| i.operandBits

/-- The opcode as it is stored, the higher half at the lower address (R55, R92). -/
def encodeBytes (i : Instr) : List Byte :=
  [(encode i).extractLsb' 8 8, (encode i).extractLsb' 0 8]

/-! ## One word of the opcode table -/

/-- The opcode whose bits are `w`, numbered as spec/opcode_table.json numbers them; the bits above `nbits` are 0. -/
def tableWord (nbits w : Nat) : Word := BitVec.ofNat 16 (w % 2 ^ nbits)

/-- The two bytes of `tableWord` as the hardware stores them, the lower address first (R55). -/
def tableBytes (nbits w : Nat) : List Byte :=
  [(tableWord nbits w).extractLsb' 8 8, (tableWord nbits w).extractLsb' 0 8]

/-- The instruction the decoder reads from the stored bytes of a word of the opcode table. -/
def decodeTableWord (nbits w : Nat) : Option Instr :=
  match decode (tableBytes nbits w) with
  | .ok (i, _) => some i
  | .error _ => none

end Sys2Proof
end

