-- ==== Sys2Proof/Machine/State.lean ====
section
/-! DEFINITION. The state of the machine (spec/10_state.md R20 to R37) and its value after reset (R36), the ways a step can stop,
and the values of its status registers and outputs. -/

namespace Sys2Proof.Machine

/-- The values of `run_state` (R28). -/
inductive RunState where
  /-- The machine executes instructions. -/
  | running
  /-- An `FX0A` found no key event and waits (R162, R247). -/
  | awaitingKey
  /-- A fatal fault ended the run (R236); only `new` leaves it (R238). -/
  | halted
  deriving DecidableEq, Repr

/-- The values of the `fault` register, in the order of their codes 0 to 4 (R29, R231). -/
inductive FaultCode where
  /-- Code 0: no fault latched. -/
  | none
  /-- Code 1: `2NNN` with a full stack (R232). -/
  | stackOverflow
  /-- Code 2: `00EE` with an empty stack (R233). -/
  | stackUnderflow
  /-- Code 3: fetch with pc above 0x0FFE (R234). -/
  | addressFault
  /-- Code 4: `load_rom` of more than 3584 bytes (R235). -/
  | romTooLarge
  deriving DecidableEq, Repr

/-- How a handler moves the program counter (R205). -/
inductive StepOutcome where
  /-- pc + 2. -/
  | advanced
  /-- pc + 4. -/
  | skipped
  /-- pc was set by the handler. -/
  | jumped
  /-- pc stays: `FX0A` still waits. -/
  | waiting
  deriving DecidableEq, Repr

/-- The result of a `step` operation (R208). -/
inductive StepResult where
  /-- `Ok(outcome, decode_error)`; `decodeError` is true exactly for an unrecognised opcode (R240). -/
  | ok (outcome : StepOutcome) (decodeError : Bool)
  /-- `Err(fault)`, with the `info` of R231 when this step raised it and none when it was latched earlier (R213). -/
  | err (fault : FaultCode) (info : Option Nat)
  deriving DecidableEq, Repr

/-- The framebuffer: row y holds screen[y*64] to screen[y*64+63], bit x of the row being screen[y*64+x] (R31, R150). -/
abbrev Screen := Vector (BitVec 64) 32

/-- `ram` as the bytes that differ from what an unlisted address reads as (`Memory.unlisted`), addresses strictly rising. -/
abbrev Memory := List Host.Cell

/-- The state tuple of spec/10_state.md, and after it the model's own fields for the inputs of a step and its result. -/
structure State where
  /-- The general registers V0 to VF (R20); VF is the flag (R21). -/
  V : Vector Byte 16
  /-- The program counter (R22). -/
  pc : Word
  /-- The index register (R24). -/
  I : Word
  /-- The call stack (R30). -/
  stack : Vector Word 16
  /-- The stack pointer, the number of occupied slots, 0 to 16 (R25; notes/assumptions/7.md). -/
  sp : Fin 17
  /-- The current-opcode holder (R26). -/
  opcode : Word
  /-- The delay timer (R27). -/
  DT : Byte
  /-- The sound timer (R27). -/
  ST : Byte
  /-- The framebuffer (R31; notes/assumptions/8.md). -/
  screen : Screen
  /-- The memory (R32). -/
  ram : Memory
  /-- The run status (R28). -/
  runState : RunState
  /-- The latched fault (R29). -/
  fault : FaultCode
  /-- The model's own: the input `keys` of this step (R203; notes/assumptions/1.md). -/
  keys : BitVec 16
  /-- The model's own: the input `key_event` of this step (R203; notes/assumptions/1.md). -/
  keyEvent : Option Key
  /-- The model's own: the input `rnd` of this step (R203; notes/assumptions/1.md). -/
  rnd : Byte
  /-- The model's own: the number of the host's next turn (notes/assumptions/3.md). -/
  turn : Nat
  /-- The model's own: the output of the last `step` (R208, R210; notes/assumptions/4.md). -/
  result : Option StepResult
  deriving DecidableEq, Repr

/-- How a step could end the model's run without a next state. It has no constructor: the spec describes the entry of every fault
(R236), so a fault is a next state with `runState = halted` and `fault` latched, and nothing of the spec is left without an
effect (notes/assumptions/6.md). Nobody raises it. -/
inductive Fault where
  deriving DecidableEq, Repr

/-- Why an instruction has no meaning. Every instruction of the table has one, so no step answers with it. -/
inductive Refusal where
  /-- Raised by an arm of `exec` whose instruction has no meaning yet; no arm does. Safe: the run stops. -/
  | notModelled (mnemonic : String)
  deriving DecidableEq, Repr

/-- What `exec` and `step` answer. -/
abbrev Outcome := Host.Outcome State Fault Refusal

/-- The machine right after reset (R36, R260): registers, stack, timers and display zero, pc = 0x200, memory at its reset
contents (nothing listed). The model's own fields start at the values of notes/assumptions/1.md, 3.md and 4.md. -/
def State.reset : State where
  V := Vector.replicate 16 0
  pc := 0x0200#16
  I := 0
  stack := Vector.replicate 16 0
  sp := 0
  opcode := 0
  DT := 0
  ST := 0
  screen := Vector.replicate 32 0
  ram := []
  runState := .running
  fault := .none
  keys := 0
  keyEvent := Option.none
  rnd := 0
  turn := 0
  result := Option.none

end Sys2Proof.Machine
end

