-- ==== Sys2Proof/Machine/Ops.lean ====
section
/-! DEFINITION. The named operations over registers, memory, the framebuffer, the program counter and the run status; entering a
fault, reset, and the host's side of a turn (spec/20_memory.md, 48_cycle_and_interfaces.md, 60_exceptions.md). -/

namespace Sys2Proof.Machine

/-! ## General registers (R10, R20) -/

theorem regId_lt (x : RegId) : x.toNat < 16 := x.isLt

/-- `V[x]`. -/
def State.reg (s : State) (x : RegId) : Byte := s.V[x.toNat]'(regId_lt x)

/-- `V[x] <- v`. -/
def State.setReg (s : State) (x : RegId) (v : Byte) : State :=
  { s with V := s.V.set x.toNat v (regId_lt x) }

/-- The number of VF, the flag (R21). -/
def regF : RegId := 0xF#4

/-! ## Special registers (R22 to R28) -/

/-- `pc <- v`. -/
def State.setPc (s : State) (v : Word) : State := { s with pc := v }

/-- `I <- v`. -/
def State.setI (s : State) (v : Word) : State := { s with I := v }

/-- `DT <- v`. -/
def State.setDT (s : State) (v : Byte) : State := { s with DT := v }

/-- `ST <- v`. -/
def State.setST (s : State) (v : Byte) : State := { s with ST := v }

/-- `screen <- scr`, all 2048 pixels. -/
def State.setScreen (s : State) (scr : Screen) : State := { s with screen := scr }

/-- `run_state <- r`. -/
def State.setRunState (s : State) (r : RunState) : State := { s with runState := r }

/-! ## The call stack (R30, D8) -/

/-- `stack[sp] <- v; sp <- sp + 1`, where a slot is free. -/
def State.push (s : State) (v : Word) (h : s.sp.val < 16) : State :=
  { s with stack := s.stack.set s.sp.val v h, sp := ⟨s.sp.val + 1, by omega⟩ }

/-- `stack[sp - 1]`, where the stack is not empty. -/
def State.top (s : State) (h : 0 < s.sp.val) : Word := s.stack[s.sp.val - 1]'(by omega)

/-- `sp <- sp - 1`; the popped slot keeps its value. -/
def State.pop (s : State) (h : 0 < s.sp.val) : State := { s with sp := ⟨s.sp.val - 1, by omega⟩ }

/-! ## Memory (R50 to R60) -/

/-- What an address not listed in `ram` reads as: the reset contents of R36, `FONT` at 0x000 to 0x04F (R52) and 0x00 elsewhere. -/
def Memory.unlisted (a : Nat) : Byte :=
  if h : a < 80 then Config.font ⟨a, h⟩ else 0

/-- `ram[a]`. -/
def Memory.read : Memory → Nat → Byte
  | [], a => Memory.unlisted a
  | (k, v) :: m, a => if a = k then v else Memory.read m a

/-- `ram[a] <- v`, keeping the canonical form (`Memory.wf`). -/
def Memory.write : Memory → Nat → Byte → Memory
  | [], a, v => if v = Memory.unlisted a then [] else [(a, v)]
  | (k, w) :: m, a, v =>
    if a < k then (if v = Memory.unlisted a then (k, w) :: m else (a, v) :: (k, w) :: m)
    else if a = k then (if v = Memory.unlisted a then m else (a, v) :: m)
    else (k, w) :: Memory.write m a v

/-- Bytes written one after another from an address upward (`load_rom`, R202). -/
def Memory.writeAll : Memory → Nat → List Byte → Memory
  | m, _, [] => m
  | m, a, b :: bs => Memory.writeAll (m.write a b) (a + 1) bs

/-- The listed addresses lie in the address space from `lo` on and rise strictly, and no listed byte is the unlisted one. -/
def Memory.wfFrom : Nat → Memory → Bool
  | _, [] => true
  | lo, (k, v) :: m => decide (lo ≤ k) && decide (k < 4096) && (v != Memory.unlisted k) && Memory.wfFrom (k + 1) m

/-- The canonical form of memory. -/
def Memory.wf (m : Memory) : Bool := Memory.wfFrom 0 m

/-- `MemRead(a, 1)` (R11): no side effect, and every address exists (R50, R60). -/
def State.readByte (s : State) (a : Addr) : Byte := s.ram.read a.toNat

/-- `MemWrite(a, 1, v)` (R11): no address is protected (R53). -/
def State.writeByte (s : State) (a : Addr) (v : Byte) : State :=
  { s with ram := s.ram.write a.toNat v }

/-! ## The framebuffer (R31, R150) -/

theorem pixel_row_lt (j : Fin 2048) : j.val / 64 < 32 := by omega

/-- `screen[j]`. -/
def Screen.get (scr : Screen) (j : Fin 2048) : Bool :=
  (scr[j.val / 64]'(pixel_row_lt j)).getLsbD (j.val % 64)

/-- `screen[j] <- screen[j] XOR bit`. -/
def Screen.xorPixel (scr : Screen) (j : Fin 2048) (bit : Bool) : Screen :=
  let row := scr[j.val / 64]'(pixel_row_lt j)
  scr.set (j.val / 64) (row ^^^ ((BitVec.ofBool bit).setWidth 64 <<< (j.val % 64))) (pixel_row_lt j)

/-- Every pixel false (R151). -/
def Screen.dark : Screen := Vector.replicate 32 0

theorem pixel_index_lt (col row : Nat) : row % 32 * 64 + col % 64 < 2048 := by omega

/-- The index `py*64 + px` of the pixel at column `col` and row `row`, each wrapping on its own (R150, R154). -/
def pixelIndex (col row : Nat) : Fin 2048 := ⟨row % 32 * 64 + col % 64, pixel_index_lt col row⟩

/-! ## Ending an instruction (R205, R208) -/

/-- The program counter an outcome leaves, from the pc the handler left (R23, R205). -/
def StepOutcome.nextPc (o : StepOutcome) (pc : Word) : Word :=
  match o with
  | .advanced => pc + 2
  | .skipped => pc + 4
  | .jumped => pc
  | .waiting => pc

/-- The end of a handler that raised no fault: pc moves by the outcome, and the step's result is `Ok(outcome, decode_error)`. -/
def State.complete (s : State) (o : StepOutcome) (decodeError : Bool := false) : State :=
  { s with pc := o.nextPc s.pc, result := some (.ok o decodeError) }

/-- The outcome of a conditional skip (41_skips.md, 45_keypad.md). -/
def skipIf (c : Bool) : StepOutcome := if c then .skipped else .advanced

/-! ## Faults (R231, R236, R237) -/

/-- The code of a fault (R231, D19). -/
def FaultCode.code : FaultCode → Nat
  | .none => 0
  | .stackOverflow => 1
  | .stackUnderflow => 2
  | .addressFault => 3
  | .romTooLarge => 4

/-- Fault entry (R236): `run_state <- Halted`, `fault <- f`, and nothing else of the machine. -/
def State.halt (s : State) (f : FaultCode) : State :=
  { s with runState := .halted, fault := f }

/-- `raise f(pc)` inside a step: the fault entry, and the step returns `Err(f)` with the pc as its info (R207, R231). There is no
return from it (R238): only `new` leaves `Halted`. -/
def State.raise (s : State) (f : FaultCode) : State :=
  { s.halt f with result := some (.err f (some s.pc.toNat)) }

/-- A step issued in `Halted` returns the latched fault again and changes nothing (R213). -/
def State.refuseStep (s : State) : State :=
  { s with result := some (.err s.fault Option.none) }

/-- The unrecognised-opcode handler (R240): the report is `decode_error = true` in the result; outcome `Advanced`. -/
def unrecognizedOpcode (s : State) : State := s.complete .advanced true

/-! ## Fetch (R55, R56, R204) -/

/-- The fetch is inside memory: pc is at most 0x0FFE (R56). -/
def State.fetchable (s : State) : Bool := decide (s.pc ≤ 0x0FFE#16)

/-- The byte at pc, fetched first (R59). -/
def State.fetchLower (s : State) : Byte := s.readByte (BitVec.ofNat 12 s.pc.toNat)

/-- The byte at pc + 1. -/
def State.fetchHigher (s : State) : Byte := s.readByte (BitVec.ofNat 12 (s.pc.toNat + 1))

/-- `MemRead(pc, 2)` (R11, R55). -/
def State.fetchWord (s : State) : Word := opcodeOfBytes s.fetchLower s.fetchHigher

/-- `opcode <- MemRead(pc, 2)` (R204). -/
def State.latchOpcode (s : State) : State := { s with opcode := s.fetchWord }

/-! ## The tick (R173) -/

/-- One tick of one timer: it saturates at 0 (R27). -/
def tickTimer (t : Byte) : Byte := if t = 0 then 0 else t - 1

/-- `tick_timers()` (R173, R209): both timers in one operation; no effect in `Halted` (R213). -/
def State.tickTimers (s : State) : State :=
  if s.runState = .halted then s
  else { s with DT := tickTimer s.DT, ST := tickTimer s.ST }

/-- A timer after `n` ticks. -/
def countDown (t : Byte) (n : Nat) : Byte := if t = 0 then 0 else BitVec.ofNat 8 (t.toNat - n)

/-- `n` ticks, one after another, in closed form (`tickMany_eq_iterate` in Laws proves it is `tickTimers` n times). -/
def State.tickMany (s : State) (n : Nat) : State :=
  { s with
    DT := if s.runState = .halted then s.DT else countDown s.DT n
    ST := if s.runState = .halted then s.ST else countDown s.ST n }

/-! ## The inputs of a step (R163, R203) and the host's turn (R174, R211) -/

/-- The three inputs of a `step` operation. -/
structure StepInputs where
  /-- Bit k is 1 when key k is pressed. -/
  keys : BitVec 16
  /-- A key event, if one is present. -/
  keyEvent : Option Key
  /-- The random byte. -/
  rnd : Byte
  deriving DecidableEq, Repr

/-- The inputs sampled at this step. -/
def State.present (s : State) (inp : StepInputs) : State :=
  { s with keys := inp.keys, keyEvent := inp.keyEvent, rnd := inp.rnd }

/-- What the environment presents at a turn: free values, under no law (D16, D18). -/
def freeInputs (turn : Nat) : StepInputs where
  keys := Config.keys turn
  keyEvent := Config.keyEvent turn
  rnd := Config.rnd turn

/-- What the host does before a step: any number of ticks (R174), then the inputs of the step. -/
def State.hostTurn (s : State) : State :=
  { (s.tickMany (Config.ticks s.turn)).present (freeInputs s.turn) with turn := s.turn + 1 }

/-! ## Reset, the ROM and the observers (R201, R202, R210) -/

/-- `new()` (R201, R260): every element of the state tuple takes its reset value, from any state. The environment's turn counter
goes on, since it is no part of the machine. -/
def State.new (s : State) : State := { State.reset with turn := s.turn }

/-- The result of `load_rom`. -/
inductive LoadResult where
  /-- The bytes are copied. -/
  | ok
  /-- `Err(fault)`, with the info of R231 when this operation raised it. -/
  | err (fault : FaultCode) (info : Option Nat)
  deriving DecidableEq, Repr

/-- The largest ROM, 4096 - 0x200 bytes (R7, R202). -/
def romMax : Nat := 4096 - 0x200

/-- `load_rom(data)` (R202, R213, R235). -/
def State.loadRom (s : State) (data : List Byte) : State × LoadResult :=
  if s.runState = .halted then (s, .err s.fault Option.none)
  else if romMax < data.length then (s.halt .romTooLarge, .err .romTooLarge (some data.length))
  else ({ s with ram := s.ram.writeAll 0x200 data }, .ok)

/-- `framebuffer()`: the 2048 pixels in index order (R210). -/
def State.framebuffer (s : State) : List Bool := List.ofFn fun j : Fin 2048 => Screen.get s.screen j

/-- `delay()` (R210). -/
def State.delay (s : State) : Byte := s.DT

/-- `sound()` (R210). -/
def State.sound (s : State) : Byte := s.ST

end Sys2Proof.Machine
end

