-- ==== Sys2Proof/Machine/Flags.lean ====
section
/-! DEFINITION. The flag: every value VF receives as a side effect, and the write of it (spec/10_state.md R21; spec/43_alu.md R130
to R140; spec/44_display.md R153). -/

namespace Sys2Proof.Machine

/-- The byte a flag is: exactly 0x00 or 0x01 (R21). -/
def flagByte (b : Bool) : Byte := if b then 0x01#8 else 0x00#8

/-- `V[15] <- flag`, the last register write of the instruction (R130). -/
def State.setFlag (s : State) (b : Bool) : State := s.setReg regF (flagByte b)

/-- Carry out of bit 7: the exact sum passes 255 (R136). -/
def carryOut (vx vy : Byte) : Bool := decide (255 < vx.toNat + vy.toNat)

/-- No borrow in `a - b`: a ≥ b (R137, R139). -/
def noBorrow (a b : Byte) : Bool := decide (b.toNat ≤ a.toNat)

/-- The bit a right shift evicts (R138). -/
def evictedLow (v : Byte) : Bool := v.getLsbD 0

/-- The bit a left shift evicts (R140). -/
def evictedHigh (v : Byte) : Bool := v.getLsbD 7

/-- The result into Vx, then the flag into VF, then `Advanced`: the end of the five flag-producing ALU instructions (R130). -/
def State.finishAlu (s : State) (x : RegId) (v : Byte) (flag : Bool) : State :=
  ((s.setReg x v).setFlag flag).complete .advanced

end Sys2Proof.Machine
end

