-- ==== Sys2Proof/Machine/Operands.lean ====
section
/-! DEFINITION. Every operand form of the instructions: the effective address (spec/20_memory.md R58), the register block of
`FX55` and `FX65`, the sprite of `DXYN`, the digits of `FX33`, the key number, and the address arithmetic of I and pc (R141). -/

namespace Sys2Proof.Machine

/-- `EA(k) = (I + k) mod 4096` (R58). -/
def State.ea (s : State) (k : Nat) : Addr := BitVec.ofNat 12 (s.I.toNat + k)

/-- An immediate address widened to 16 bits (R82). -/
def zext16 (nnn : Addr) : Word := nnn.setWidth 16

/-- A byte widened to 16 bits. -/
def byteToWord (b : Byte) : Word := b.setWidth 16

/-- The 12 bits of I that are meaningful, `& 0x0FFF` (R24). -/
def mask12 (w : Word) : Word := w &&& 0x0FFF#16

/-- `(I + Vx) & 0x0FFF` (R181). -/
def State.indexPlus (s : State) (v : Byte) : Word := mask12 (s.I + byteToWord v)

/-- `(I + x + 1) & 0x0FFF` (R186). -/
def State.indexPastBlock (s : State) (x : RegId) : Word := mask12 (s.I + BitVec.ofNat 16 (x.toNat + 1))

/-- `font_base + 5 * Vx` with `font_base` = 0x000, the exact product (R182). -/
def glyphAddress (v : Byte) : Word := 0x000#16 + 5#16 * byteToWord v

/-- The target of `BNNN`: nnn + V0 in 16 bits, unmasked (R104). -/
def jumpTarget (nnn : Addr) (v0 : Byte) : Word := zext16 nnn + byteToWord v0

/-- The key a keypad skip queries: Vx[3:0] (R160). -/
def keyOf (v : Byte) : Key := v.extractLsb' 0 4

/-- `keys[k]` (R163). -/
def State.keyPressed (s : State) (k : Key) : Bool := s.keys.getLsbD k.toNat

/-- The hundreds digit (R183). -/
def bcdHundreds (v : Byte) : Byte := BitVec.ofNat 8 (v.toNat / 100)

/-- The tens digit (R183). -/
def bcdTens (v : Byte) : Byte := BitVec.ofNat 8 (v.toNat / 10 % 10)

/-- The ones digit (R183). -/
def bcdOnes (v : Byte) : Byte := BitVec.ofNat 8 (v.toNat % 10)

/-- `for k = 0 to count - 1: MemWrite(EA(k), 1, V[k])` (R184). -/
def State.storeBlock (s : State) : Nat → State
  | 0 => s
  | k + 1 =>
    let t := s.storeBlock k
    t.writeByte (t.ea k) (t.reg (BitVec.ofNat 4 k))

/-- `for k = 0 to count - 1: V[k] <- MemRead(EA(k), 1)` (R185). -/
def State.loadBlock (s : State) : Nat → State
  | 0 => s
  | k + 1 =>
    let t := s.loadBlock k
    t.setReg (BitVec.ofNat 4 k) (t.readByte (t.ea k))

/-- Row `row` of the sprite at I: the byte at `EA(row)` (R152, R153). -/
def State.spriteRow (s : State) (row : Nat) : Byte := s.readByte (s.ea row)

/-- The bit of a sprite row at column offset `col`: the most significant bit is leftmost (R152). -/
def spriteBit (b : Byte) (col : Nat) : Bool := b.getLsbD (7 - col)

/-- A framebuffer being drawn on, and whether a lit pixel has been turned off so far (R154). -/
structure Blit where
  /-- The pixels. -/
  screen : Screen
  /-- The aggregate collision so far. -/
  collision : Bool
  deriving DecidableEq, Repr

/-- One pixel of the blit: XOR the sprite bit in; a lit pixel met by a 1 bit is a collision (R153, R154(c)). -/
def Blit.pixel (acc : Blit) (vx vy : Byte) (row : Nat) (b : Byte) (col : Nat) : Blit :=
  let idx := pixelIndex (vx.toNat + col) (vy.toNat + row)
  let bit := spriteBit b col
  let old := Screen.get acc.screen idx
  { screen := Screen.xorPixel acc.screen idx bit, collision := acc.collision || (old && bit) }

/-- `for col = 0 to count - 1` of the blit of one row (R153). -/
def Blit.cols (acc : Blit) (vx vy : Byte) (row : Nat) (b : Byte) : Nat → Blit
  | 0 => acc
  | col + 1 => (acc.cols vx vy row b col).pixel vx vy row b col

/-- `for row = 0 to count - 1` of the blit of a sprite whose rows are `rowByte` (R153). -/
def Blit.rows (acc : Blit) (vx vy : Byte) (rowByte : Nat → Byte) : Nat → Blit
  | 0 => acc
  | row + 1 => (acc.rows vx vy rowByte row).cols vx vy row (rowByte row) 8

/-- `draw_sprite` of R154 with the n sprite rows at I: the new framebuffer and the collision. -/
def State.drawSprite (s : State) (vx vy : Byte) (n : Nibble) : Blit :=
  Blit.rows { screen := s.screen, collision := false } vx vy s.spriteRow n.toNat

end Sys2Proof.Machine
end

