-- ==== Sys2Proof/Machine/Alu.lean ====
section
/-! DEFINITION. The register-to-register ALU (spec/43_alu.md R130 to R141). Operands are read before anything is written, and the
flag, where there is one, is written last (R130). -/

namespace Sys2Proof.Machine

/-- `8XY0` LD Vx, Vy (R132). -/
def execLdReg (x y : RegId) (s : State) : Outcome := .next ((s.setReg x (s.reg y)).complete .advanced)

/-- `8XY1` OR Vx, Vy (R133). -/
def execOrReg (x y : RegId) (s : State) : Outcome :=
  .next ((s.setReg x (s.reg x ||| s.reg y)).complete .advanced)

/-- `8XY2` AND Vx, Vy (R134). -/
def execAndReg (x y : RegId) (s : State) : Outcome :=
  .next ((s.setReg x (s.reg x &&& s.reg y)).complete .advanced)

/-- `8XY3` XOR Vx, Vy (R135). -/
def execXorReg (x y : RegId) (s : State) : Outcome :=
  .next ((s.setReg x (s.reg x ^^^ s.reg y)).complete .advanced)

/-- `8XY4` ADD Vx, Vy (R136). -/
def execAddReg (x y : RegId) (s : State) : Outcome :=
  .next (s.finishAlu x (s.reg x + s.reg y) (carryOut (s.reg x) (s.reg y)))

/-- `8XY5` SUB Vx, Vy (R137). -/
def execSubReg (x y : RegId) (s : State) : Outcome :=
  .next (s.finishAlu x (s.reg x - s.reg y) (noBorrow (s.reg x) (s.reg y)))

/-- `8XY6` SHR Vx (R138): Vx in place, y ignored. -/
def execShr (x _y : RegId) (s : State) : Outcome :=
  .next (s.finishAlu x (s.reg x >>> 1) (evictedLow (s.reg x)))

/-- `8XY7` SUBN Vx, Vy (R139). -/
def execSubn (x y : RegId) (s : State) : Outcome :=
  .next (s.finishAlu x (s.reg y - s.reg x) (noBorrow (s.reg y) (s.reg x)))

/-- `8XYE` SHL Vx (R140): Vx in place, y ignored. -/
def execShl (x _y : RegId) (s : State) : Outcome :=
  .next (s.finishAlu x (s.reg x <<< 1) (evictedHigh (s.reg x)))

end Sys2Proof.Machine
end

