-- ==== Sys2Proof/Machine/ControlFlow.lean ====
section
/-! DEFINITION. Control transfer (spec/40_control_flow.md R100 to R104). -/

namespace Sys2Proof.Machine

/-- `00EE` RET (R100, R233): pops the address of the call and advances past it. -/
def execRet (s : State) : Outcome :=
  .next <|
    if h : 0 < s.sp.val then ((s.pop h).setPc (s.top h)).complete .advanced
    else s.raise .stackUnderflow

/-- `0NNN` SYS (R101): a no-op, whatever nnn is. -/
def execSys (_nnn : Addr) (s : State) : Outcome := .next (s.complete .advanced)

/-- `1NNN` JP (R102). -/
def execJp (nnn : Addr) (s : State) : Outcome := .next ((s.setPc (zext16 nnn)).complete .jumped)

/-- `2NNN` CALL (R103, R232): pushes its own address. -/
def execCall (nnn : Addr) (s : State) : Outcome :=
  .next <|
    if h : s.sp.val < 16 then ((s.push s.pc h).setPc (zext16 nnn)).complete .jumped
    else s.raise .stackOverflow

/-- `BNNN` JP V0 (R104). -/
def execJpV0 (nnn : Addr) (s : State) : Outcome :=
  .next ((s.setPc (jumpTarget nnn (s.reg 0#4))).complete .jumped)

end Sys2Proof.Machine
end

