-- ==== Sys2Proof/Machine/Display.lean ====
section
/-! DEFINITION. The display instructions (spec/44_display.md R150 to R155). -/

namespace Sys2Proof.Machine

/-- `00E0` CLS (R151). -/
def execCls (s : State) : Outcome := .next ((s.setScreen Screen.dark).complete .advanced)

/-- `DXYN` DRW Vx, Vy, n (R153): the coordinates are read before VF is written; VF is written last, also when n = 0. -/
def execDrw (x y : RegId) (n : Nibble) (s : State) : Outcome :=
  .next
    (((s.setScreen (s.drawSprite (s.reg x) (s.reg y) n).screen).setFlag
      (s.drawSprite (s.reg x) (s.reg y) n).collision).complete .advanced)

end Sys2Proof.Machine
end

