-- ==== Sys2Proof/Machine/Immediate.lean ====
section
/-! DEFINITION. Immediate loads and adds, random (spec/42_immediate.md R120 to R123). -/

namespace Sys2Proof.Machine

/-- `6XNN` LD Vx, nn (R120). -/
def execLdImm (x : RegId) (nn : Byte) (s : State) : Outcome := .next ((s.setReg x nn).complete .advanced)

/-- `7XNN` ADD Vx, nn (R121): modulo 256, no flag. -/
def execAddImm (x : RegId) (nn : Byte) (s : State) : Outcome :=
  .next ((s.setReg x (s.reg x + nn)).complete .advanced)

/-- `ANNN` LD I, nnn (R122). -/
def execLdI (nnn : Addr) (s : State) : Outcome := .next ((s.setI (zext16 nnn)).complete .advanced)

/-- `CXNN` RND Vx, nn (R123): the step's input byte, masked. -/
def execRnd (x : RegId) (nn : Byte) (s : State) : Outcome :=
  .next ((s.setReg x (s.rnd &&& nn)).complete .advanced)

end Sys2Proof.Machine
end

