-- ==== Sys2Proof/Machine/Index.lean ====
section
/-! DEFINITION. The index-register and memory instructions (spec/47_index_memory.md R180 to R186). -/

namespace Sys2Proof.Machine

/-- `FX1E` ADD I, Vx (R181): masked to 12 bits, no flag. -/
def execAddI (x : RegId) (s : State) : Outcome := .next ((s.setI (s.indexPlus (s.reg x))).complete .advanced)

/-- `FX29` LD F, Vx (R182): the whole byte Vx, not its low nibble. -/
def execLdF (x : RegId) (s : State) : Outcome := .next ((s.setI (glyphAddress (s.reg x))).complete .advanced)

/-- `FX33` LD B, Vx (R183): three whole-byte digits, hundreds first; I is unchanged. -/
def execLdB (x : RegId) (s : State) : Outcome :=
  .next
    ((((s.writeByte (s.ea 0) (bcdHundreds (s.reg x))).writeByte (s.ea 1) (bcdTens (s.reg x))).writeByte (s.ea 2)
      (bcdOnes (s.reg x))).complete .advanced)

/-- `FX55` LD [I], Vx (R184): V0 to Vx inclusive, then I moves past the block (R186). -/
def execStoreRegs (x : RegId) (s : State) : Outcome :=
  .next (((s.storeBlock (x.toNat + 1)).setI (s.indexPastBlock x)).complete .advanced)

/-- `FX65` LD Vx, [I] (R185): V0 to Vx inclusive, then I moves past the block (R186). -/
def execLoadRegs (x : RegId) (s : State) : Outcome :=
  .next (((s.loadBlock (x.toNat + 1)).setI (s.indexPastBlock x)).complete .advanced)

end Sys2Proof.Machine
end

