-- ==== Sys2Proof/Machine/Keypad.lean ====
section
/-! DEFINITION. The keypad instructions (spec/45_keypad.md R160 to R163). -/

namespace Sys2Proof.Machine

/-- `EX9E` SKP Vx (R160). -/
def execSkp (x : RegId) (s : State) : Outcome :=
  .next (s.complete (skipIf (s.keyPressed (keyOf (s.reg x)))))

/-- `EXA1` SKNP Vx (R161). -/
def execSknp (x : RegId) (s : State) : Outcome :=
  .next (s.complete (skipIf (!s.keyPressed (keyOf (s.reg x)))))

/-- `FX0A` LD Vx, K (R162): completes with a key event, waits at the same pc without one. -/
def execLdVxK (x : RegId) (s : State) : Outcome :=
  .next <|
    match s.keyEvent with
    | some k => ((s.setReg x (k.setWidth 8)).setRunState .running).complete .advanced
    | none => (s.setRunState .awaitingKey).complete .waiting

end Sys2Proof.Machine
end

