-- ==== Sys2Proof/Machine/Skips.lean ====
section
/-! DEFINITION. The conditional skips on registers (spec/41_skips.md R110 to R113). -/

namespace Sys2Proof.Machine

/-- `3XNN` SE Vx, nn (R110). -/
def execSeImm (x : RegId) (nn : Byte) (s : State) : Outcome := .next (s.complete (skipIf (s.reg x == nn)))

/-- `4XNN` SNE Vx, nn (R111). -/
def execSneImm (x : RegId) (nn : Byte) (s : State) : Outcome := .next (s.complete (skipIf (s.reg x != nn)))

/-- `5XY0` SE Vx, Vy (R112). -/
def execSeReg (x y : RegId) (s : State) : Outcome := .next (s.complete (skipIf (s.reg x == s.reg y)))

/-- `9XY0` SNE Vx, Vy (R113). -/
def execSneReg (x y : RegId) (s : State) : Outcome := .next (s.complete (skipIf (s.reg x != s.reg y)))

end Sys2Proof.Machine
end

