-- ==== Sys2Proof/Machine/Timers.lean ====
section
/-! DEFINITION. The timer instructions (spec/46_timers.md R170 to R172). -/

namespace Sys2Proof.Machine

/-- `FX07` LD Vx, DT (R170). -/
def execLdVxDt (x : RegId) (s : State) : Outcome := .next ((s.setReg x s.DT).complete .advanced)

/-- `FX15` LD DT, Vx (R171). -/
def execLdDtVx (x : RegId) (s : State) : Outcome := .next ((s.setDT (s.reg x)).complete .advanced)

/-- `FX18` LD ST, Vx (R172). -/
def execLdStVx (x : RegId) (s : State) : Outcome := .next ((s.setST (s.reg x)).complete .advanced)

end Sys2Proof.Machine
end

