-- ==== Sys2Proof/Machine/Cycle.lean ====
section
/-! DEFINITION. The fetch-decode-execute cycle and every host operation with its inputs as arguments
(spec/48_cycle_and_interfaces.md R200 to R213). -/

namespace Sys2Proof.Machine

/-- Decode and execute the latched opcode (R206): its handler, or the unrecognised-opcode handler of R240. -/
def execOpcode (s : State) : Outcome :=
  match decodeWord s.opcode with
  | some i => exec i s
  | none => .next (unrecognizedOpcode s)

/-- The whole step on the inputs sampled in the state (R207): the Halted test, the fetch bounds, the fetch, then decode and execute
(R239). The pc-update of R205 stands at the end of each handler, in `State.complete`. -/
def cycle (s : State) : Outcome :=
  if s.runState = .halted then .next s.refuseStep
  else if s.fetchable then execOpcode s.latchOpcode
  else .next (s.raise .addressFault)

/-- The operations through which a host drives the block (R200); the observers are `State.framebuffer`, `State.delay` and
`State.sound`. -/
inductive HostOp where
  /-- `new()` (R201). -/
  | new
  /-- `load_rom(data)` (R202). -/
  | loadRom (data : List Byte)
  /-- `step(keys, key_event, rnd)` (R203, R207). -/
  | step (inputs : StepInputs)
  /-- `tick_timers()` (R209). -/
  | tickTimers
  deriving DecidableEq, Repr

/-- The effect of a host operation. The result of a `step` is `State.result`; that of `load_rom` is the second part of
`State.loadRom`. -/
def HostOp.apply (op : HostOp) (s : State) : Outcome :=
  match op with
  | .new => .next s.new
  | .loadRom data => .next (s.loadRom data).1
  | .step inputs => cycle (s.present inputs)
  | .tickTimers => .next s.tickTimers

/-- Store an instruction's two bytes at the pc, the lower address first: the load of a program from outside the machine. -/
def State.placeAtPc (s : State) (nbits w : Nat) : State :=
  { s with
    ram := (s.ram.write (BitVec.ofNat 12 s.pc.toNat).toNat ((tableWord nbits w).extractLsb' 8 8)).write
      (BitVec.ofNat 12 (s.pc.toNat + 1)).toNat ((tableWord nbits w).extractLsb' 0 8) }

end Sys2Proof.Machine
end

