-- ==== Sys2Proof/Machine/Step.lean ====
section
/-! DEFINITION. One turn of the machine: what the host does before the step, then the step (spec/48_cycle_and_interfaces.md R207,
R211). -/

namespace Sys2Proof.Machine

/-- One step: the ticks the host issued since the last step and the inputs it presents (`State.hostTurn`), then the step itself. -/
def step (s : State) : Host.Outcome State Fault Refusal := cycle s.hostTurn

/-- The state with an instruction stored where the next step fetches, at pc and pc + 1; nothing else changes. It stands for the
load of a program (notes/assumptions/11.md). In a state that fetches nothing (Halted, or pc above 0x0FFE) the next step still
fetches nothing. -/
def State.withFetchWord (s : State) (nbits w : Nat) : State := s.placeAtPc nbits w

end Sys2Proof.Machine
end

