-- ==== Sys2Proof/Safety.lean ====
section
/-! DEFINITION. What a safe run is, in the terms statements use: the invariant of the reachable states (spec/10_state.md R35), and
what it means for an operation to leave parts of the state unchanged. -/

namespace Sys2Proof.Machine

/-- The elements of the state tuple of spec/10_state.md, and the inputs of the step (the model's own fields). -/
inductive Elem where
  /-- The sixteen general registers. -/
  | V
  /-- The program counter. -/
  | pc
  /-- The index register. -/
  | I
  /-- The sixteen stack slots. -/
  | stack
  /-- The stack pointer. -/
  | sp
  /-- The opcode holder. -/
  | opcode
  /-- The delay timer. -/
  | DT
  /-- The sound timer. -/
  | ST
  /-- The 2048 pixels. -/
  | screen
  /-- All 4096 bytes of memory. -/
  | ram
  /-- The run status. -/
  | runState
  /-- The latched fault. -/
  | fault
  /-- The inputs of this step and the turn counter. -/
  | inputs
  deriving DecidableEq, Repr

/-- Two states hold the same in one element; memory is compared by reading each of its bytes. -/
def Agree (e : Elem) (s t : State) : Prop :=
  match e with
  | .V => ∀ r : RegId, t.reg r = s.reg r
  | .pc => t.pc = s.pc
  | .I => t.I = s.I
  | .stack => t.stack = s.stack
  | .sp => t.sp = s.sp
  | .opcode => t.opcode = s.opcode
  | .DT => t.DT = s.DT
  | .ST => t.ST = s.ST
  | .screen => ∀ j : Fin 2048, Screen.get t.screen j = Screen.get s.screen j
  | .ram => ∀ a : Addr, t.readByte a = s.readByte a
  | .runState => t.runState = s.runState
  | .fault => t.fault = s.fault
  | .inputs => t.keys = s.keys ∧ t.keyEvent = s.keyEvent ∧ t.rnd = s.rnd ∧ t.turn = s.turn

/-- Every element but those listed is unchanged. -/
def UnchangedExcept (changed : List Elem) (s t : State) : Prop := ∀ e : Elem, e ∉ changed → Agree e s t

/-- Every register but those listed is unchanged. -/
def RegsExcept (changed : List RegId) (s t : State) : Prop := ∀ r : RegId, r ∉ changed → t.reg r = s.reg r

/-- The machine goes on to a next state, which meets `P`. -/
def Completes (o : Outcome) (P : State → Prop) : Prop := ∃ t, o = .next t ∧ P t

/-- The step's result is `Ok(outcome, false)` and pc has moved by that outcome from where it stood (R205). -/
def EndsAs (o : StepOutcome) (s t : State) : Prop :=
  t.pc = o.nextPc s.pc ∧ t.result = some (.ok o false)

/-- The instruction writes `v` to register x and nothing else, and pc advances (R205). -/
def WritesReg (x : RegId) (v : Byte) (s t : State) : Prop :=
  t.reg x = v ∧ RegsExcept [x] s t ∧ EndsAs .advanced s t ∧ UnchangedExcept [.V, .pc] s t

/-- The fault `f` was taken (R236): Halted, the code latched, `Err(f)` with the pc, and the rest of the machine unchanged. -/
def Faulted (f : FaultCode) (s t : State) : Prop :=
  t.runState = .halted ∧ t.fault = f ∧ t.result = some (.err f (some s.pc.toNat)) ∧ UnchangedExcept [.runState, .fault] s t

/-- Byte `b` is what address `a` holds after the bytes `v 0` to `v (n-1)` are stored at `EA(0)` to `EA(n-1)` of `s` (R58): the
stored byte where one of them is stored at `a`, else the byte of `s`. -/
def HoldsAfterStore (s : State) (n : Nat) (v : Nat → Byte) (a : Addr) (b : Byte) : Prop :=
  (∀ k < n, s.ea k = a → b = v k) ∧ ((∀ k < n, s.ea k ≠ a) → b = s.readByte a)

/-- The fetch at the pc of `u` reads, at each of its two addresses on its own, what the store left there; the byte at pc is the high
one (D1). -/
def FetchSees (s : State) (n : Nat) (v : Nat → Byte) (u : State) : Prop :=
  ∃ lower higher : Byte, u.fetchWord = lower ++ higher ∧
    HoldsAfterStore s n v (BitVec.ofNat 12 u.pc.toNat) lower ∧
    HoldsAfterStore s n v (BitVec.ofNat 12 (u.pc.toNat + 1)) higher

/-- The opcodes selected by a row of R84 are decoded to that row's instruction. -/
def Encodes (mask pattern : Word) (instr : Word → Instr) : Prop :=
  ∀ op : Word, op &&& mask = pattern → decodeWord op = some (instr op)

/-- The invariant of the reachable states (R35), with the canonical form of memory. The range 0 to 16 of `sp` is in its type. -/
structure State.Inv (s : State) : Prop where
  /-- I ≤ 0x0FFF (R24). -/
  index_le : s.I ≤ 0x0FFF#16
  /-- pc ≤ 0x10FE (R23). -/
  pc_le : s.pc ≤ 0x10FE#16
  /-- Every live slot holds the address of a call that was fetched (R30). -/
  live_le : ∀ j : Fin 16, j.val < s.sp.val → s.stack[j] ≤ 0x0FFE#16
  /-- fault = None exactly when the machine is not Halted (R29). -/
  fault_iff : s.fault = .none ↔ s.runState ≠ .halted
  /-- AwaitingKey only after an `FX0A` fetched at the current pc, which `opcode` holds (R35). -/
  awaiting : s.runState = .awaitingKey →
    s.opcode &&& 0xF0FF#16 = 0xF00A#16 ∧ s.pc ≤ 0x0FFE#16 ∧ s.fetchWord = s.opcode
  /-- Memory is in its canonical form. -/
  ram_wf : s.ram.wf = true

/-- The registers an instruction may write: the destinations its rule names, and VF for the six instructions with a flag (R21). -/
def mayWriteReg (i : Instr) (r : RegId) : Bool :=
  match i with
  | .cls => false
  | .ret => false
  | .sys _ => false
  | .jp _ => false
  | .call _ => false
  | .seImm _ _ => false
  | .sneImm _ _ => false
  | .seReg _ _ => false
  | .ldImm x _ => decide (r = x)
  | .addImm x _ => decide (r = x)
  | .ldReg x _ => decide (r = x)
  | .orReg x _ => decide (r = x)
  | .andReg x _ => decide (r = x)
  | .xorReg x _ => decide (r = x)
  | .addReg x _ => decide (r = x) || decide (r = regF)
  | .subReg x _ => decide (r = x) || decide (r = regF)
  | .shr x _ => decide (r = x) || decide (r = regF)
  | .subn x _ => decide (r = x) || decide (r = regF)
  | .shl x _ => decide (r = x) || decide (r = regF)
  | .sneReg _ _ => false
  | .ldI _ => false
  | .jpV0 _ => false
  | .rnd x _ => decide (r = x)
  | .drw _ _ _ => decide (r = regF)
  | .skp _ => false
  | .sknp _ => false
  | .ldVxDt x => decide (r = x)
  | .ldVxK x => decide (r = x)
  | .ldDtVx _ => false
  | .ldStVx _ => false
  | .addI _ => false
  | .ldF _ => false
  | .ldB _ => false
  | .storeRegs _ => false
  | .loadRegs x => decide (r.toNat ≤ x.toNat)

/-- The instruction reads the input `keys` (R203). -/
def readsKeys (i : Instr) : Prop := ∃ x, i = .skp x ∨ i = .sknp x

/-- The instruction reads the input `key_event` (R203). -/
def readsKeyEvent (i : Instr) : Prop := ∃ x, i = .ldVxK x

/-- The instruction reads the input `rnd` (R203). -/
def readsRnd (i : Instr) : Prop := ∃ x nn, i = .rnd x nn

end Sys2Proof.Machine
end

