-- ==== Sys2Proof/Certificates/Slice0/Obligations.lean ====
section
/-! DEFINITION. The statements about the machine, from the numbered rules of spec/. "D<n>" is a decision of
spec/92_eei_decisions.md: a clause that rests on one is the spec's own choice, and its statement says so (notes/assumptions/9.md).
Statements about what an instruction does hold for every state and operand, and so for every value of the inputs. -/

open Sys2Proof Sys2Proof.Machine

/-! ## Encoding -/

/-- Words of 95_test_vectors.md 2.1 and the worked words of R92 decode to the instructions those tables name (sanity). The digits of the 8XY
group (0x8AB3, 0x8ABE) are the spec's decision D31, the extent of `0NNN` (0x0000, 0x00E1) its D30, the order of the stored bytes D1. -/
def Obligations.TableWordsDecode : Prop :=
  decodeWord 0x00E0#16 = some .cls ∧ decodeWord 0x00EE#16 = some .ret ∧ decodeWord 0x0000#16 = some (.sys 0x000#12) ∧
  decodeWord 0x00E1#16 = some (.sys 0x0E1#12) ∧ decodeWord 0x1ABC#16 = some (.jp 0xABC#12) ∧
  decodeWord 0x5120#16 = some (.seReg 1#4 2#4) ∧ decodeWord 0x5121#16 = none ∧
  decodeWord 0x8AB3#16 = some (.xorReg 0xA#4 0xB#4) ∧ decodeWord 0x8AB8#16 = none ∧
  decodeWord 0x8ABE#16 = some (.shl 0xA#4 0xB#4) ∧ decodeWord 0xE19E#16 = some (.skp 1#4) ∧ decodeWord 0xE19F#16 = none ∧
  decodeWord 0xF31E#16 = some (.addI 3#4) ∧ decodeWord 0xF00A#16 = some (.ldVxK 0#4) ∧ decodeWord 0xFFFF#16 = none ∧
  decode [0x83#8, 0x54#8] = .ok (.addReg 3#4 5#4, []) ∧ decode [0xA2#8, 0xF0#8] = .ok (.ldI 0x2F0#12, []) ∧
  decode [0xD0#8, 0x15#8] = .ok (.drw 0#4 1#4 5#4, [])

/-- R92, R82: decoding an encoded well-formed instruction gives it back, for every instruction and every operand, as a word and as
the two stored bytes. -/
def Obligations.DecodeOfEncode : Prop :=
  ∀ i : Instr, i.WellFormed → decodeWord (encode i) = some i ∧ decode (encodeBytes i) = .ok (i, [])

/-- R83, R92: an opcode that decodes to an instruction is the encoding of it, and that instruction is well-formed: every recognised
word has exactly one meaning. -/
def Obligations.EncodeOfDecode : Prop :=
  ∀ (op : Word) (i : Instr), decodeWord op = some i → encode i = op ∧ i.WellFormed

/-- R86: exactly the opcodes of R86's list match no row. The digits of the 8XY group are the spec's decision D31, the extent of
`0NNN` its decision D30. -/
def Obligations.UnrecognizedOpcodesAreTheListed : Prop :=
  ∀ op : Word, decodeWord op = none ↔
    (op.n0 = 0x5#4 ∧ op.n3 ≠ 0x0#4) ∨
    (op.n0 = 0x8#4 ∧ op.n3 ∈ [0x8#4, 0x9#4, 0xA#4, 0xB#4, 0xC#4, 0xD#4, 0xF#4]) ∨
    (op.n0 = 0x9#4 ∧ op.n3 ≠ 0x0#4) ∨
    (op.n0 = 0xE#4 ∧ op.nn ∉ [0x9E#8, 0xA1#8]) ∨
    (op.n0 = 0xF#4 ∧ op.nn ∉ [0x07#8, 0x0A#8, 0x15#8, 0x18#8, 0x1E#8, 0x29#8, 0x33#8, 0x55#8, 0x65#8])

/-! ## Control transfer -/

/-- R100: `RET` pops the top slot into pc and advances past it; the slot keeps its value and nothing else changes. That the popped
value is the call's own address, to which 2 is added, is the spec's decision D7; which slot is popped, and that it keeps its value,
is D8 (R30). -/
def Obligations.RetResumesAfterTheCall : Prop :=
  Encodes 0xFFFF#16 0x00EE#16 (fun _ => .ret) ∧
  ∀ (s : State) (j : Fin 16), s.sp.val = j.val + 1 →
    Completes (exec .ret s) fun t =>
      t.sp.val = j.val ∧ t.pc = s.stack[j] + 2 ∧ t.result = some (.ok .advanced false) ∧ UnchangedExcept [.pc, .sp] s t

/-- R233, R236, R237: `RET` with an empty stack takes StackUnderflow and changes nothing else (the Halted state is D20). -/
def Obligations.RetOnEmptyStackFaults : Prop :=
  ∀ s : State, s.sp.val = 0 → Completes (exec .ret s) (Faulted .stackUnderflow s)

/-- R101: every opcode 0x0000 to 0x0FFF but 0x00E0 and 0x00EE is `SYS`, which advances and changes nothing else, whatever nnn is
(the extent is D30). -/
def Obligations.SysOnlyAdvances : Prop :=
  (∀ op : Word, op &&& 0xF000#16 = 0x0000#16 → op ≠ 0x00E0#16 → op ≠ 0x00EE#16 → decodeWord op = some (.sys op.nnn)) ∧
  ∀ (nnn : Addr) (s : State), Completes (exec (.sys nnn) s) fun t => EndsAs .advanced s t ∧ UnchangedExcept [.pc] s t

/-- R102: `JP` sets pc to nnn, of any parity, and changes nothing else; at nnn = 0xFFF the jump is accepted and the next fetch is
past memory (the fetch bound is D4); at its own address it changes no state (R102 marks this as derived). -/
def Obligations.JpSetsPc : Prop :=
  Encodes 0xF000#16 0x1000#16 (fun op => .jp op.nnn) ∧
  ∀ (nnn : Addr) (s : State),
    Completes (exec (.jp nnn) s) fun t =>
      t.pc.toNat = nnn.toNat ∧ t.result = some (.ok .jumped false) ∧ UnchangedExcept [.pc] s t ∧
      (nnn = 0xFFF#12 → t.fetchable = false) ∧ (s.pc.toNat = nnn.toNat → UnchangedExcept [] s t)

/-- R103: `CALL` with a free slot writes its own address there, counts the slot, and jumps; every other slot and all else is
unchanged. What is pushed is D7, which slot D8. -/
def Obligations.CallPushesItsAddress : Prop :=
  Encodes 0xF000#16 0x2000#16 (fun op => .call op.nnn) ∧
  ∀ (nnn : Addr) (s : State) (j : Fin 16), s.sp.val = j.val →
    Completes (exec (.call nnn) s) fun t =>
      t.stack[j] = s.pc ∧ (∀ k : Fin 16, k ≠ j → t.stack[k] = s.stack[k]) ∧ t.sp.val = j.val + 1 ∧
      t.pc.toNat = nnn.toNat ∧ t.result = some (.ok .jumped false) ∧ UnchangedExcept [.pc, .sp, .stack] s t

/-- R232, R236, R237: `CALL` with a full stack takes StackOverflow and changes nothing else (the Halted state is D20). -/
def Obligations.CallOnFullStackFaults : Prop :=
  ∀ (nnn : Addr) (s : State), s.sp.val = 16 → Completes (exec (.call nnn) s) (Faulted .stackOverflow s)

/-- 95_test_vectors.md S11: a call, then anything that leaves stack and sp as the call left them, then a return: pc is the address
after the call and sp its value before the call. -/
def Obligations.CallThenRetPairs : Prop :=
  ∀ (nnn : Addr) (s : State), s.sp.val < 16 →
    Completes (exec (.call nnn) s) fun t =>
      ∀ u : State, u.stack = t.stack → u.sp = t.sp →
        Completes (exec .ret u) fun w => w.pc = s.pc + 2 ∧ w.sp = s.sp ∧ UnchangedExcept [.pc, .sp] u w

/-- R104: `JP V0` sets pc to the exact sum nnn + V0; that it is not masked is D6. -/
def Obligations.JpV0AddsRegisterZero : Prop :=
  Encodes 0xF000#16 0xB000#16 (fun op => .jpV0 op.nnn) ∧
  ∀ (nnn : Addr) (s : State),
    Completes (exec (.jpV0 nnn) s) fun t =>
      t.pc.toNat = nnn.toNat + (s.reg 0#4).toNat ∧ t.result = some (.ok .jumped false) ∧ UnchangedExcept [.pc] s t

/-! ## Skips -/

/-- R110, R111: the skips on an immediate: 4 is added to pc where the condition holds, else 2; nothing else changes. A skip taken at
0x0FFB or above leaves a pc that cannot be fetched (the fetch bound of R56 is D4). -/
def Obligations.SkipOnImmediate : Prop :=
  Encodes 0xF000#16 0x3000#16 (fun op => .seImm op.x op.nn) ∧ Encodes 0xF000#16 0x4000#16 (fun op => .sneImm op.x op.nn) ∧
  ∀ (x : RegId) (nn : Byte) (s : State),
    (Completes (exec (.seImm x nn) s) fun t =>
      EndsAs (if s.reg x = nn then .skipped else .advanced) s t ∧ UnchangedExcept [.pc] s t ∧
      (0x0FFB#16 ≤ s.pc → s.pc ≤ 0x0FFE#16 → s.reg x = nn → t.fetchable = false)) ∧
    (Completes (exec (.sneImm x nn) s) fun t =>
      EndsAs (if s.reg x = nn then .advanced else .skipped) s t ∧ UnchangedExcept [.pc] s t)

/-- R112, R113: the skips on two registers; with a low digit other than 0 the word is no instruction. -/
def Obligations.SkipOnRegisters : Prop :=
  Encodes 0xF00F#16 0x5000#16 (fun op => .seReg op.x op.y) ∧ Encodes 0xF00F#16 0x9000#16 (fun op => .sneReg op.x op.y) ∧
  (∀ op : Word, (op.n0 = 0x5#4 ∨ op.n0 = 0x9#4) → op.n3 ≠ 0x0#4 → decodeWord op = none) ∧
  ∀ (x y : RegId) (s : State),
    (Completes (exec (.seReg x y) s) fun t =>
      EndsAs (if s.reg x = s.reg y then .skipped else .advanced) s t ∧ UnchangedExcept [.pc] s t) ∧
    (Completes (exec (.sneReg x y) s) fun t =>
      EndsAs (if s.reg x = s.reg y then .advanced else .skipped) s t ∧ UnchangedExcept [.pc] s t)

/-! ## Immediate loads and adds, random -/

/-- R120: `LD Vx, nn`; the rule's property: a following `7X00` leaves Vx = nn. -/
def Obligations.LoadImmediate : Prop :=
  Encodes 0xF000#16 0x6000#16 (fun op => .ldImm op.x op.nn) ∧
  ∀ (x : RegId) (nn : Byte) (s : State),
    Completes (exec (.ldImm x nn) s) fun t =>
      WritesReg x nn s t ∧ Completes (exec (.addImm x 0x00#8) t) fun u => u.reg x = nn

/-- R121: `ADD Vx, nn` wraps modulo 256 and touches no other register, VF among them (unless x = F). -/
def Obligations.AddImmediateWraps : Prop :=
  Encodes 0xF000#16 0x7000#16 (fun op => .addImm op.x op.nn) ∧
  ∀ (x : RegId) (nn : Byte) (s : State),
    Completes (exec (.addImm x nn) s) fun t =>
      (t.reg x).toNat = ((s.reg x).toNat + nn.toNat) % 256 ∧ RegsExcept [x] s t ∧ EndsAs .advanced s t ∧
      UnchangedExcept [.V, .pc] s t

/-- R122: `LD I, nnn`. -/
def Obligations.LoadIndex : Prop :=
  Encodes 0xF000#16 0xA000#16 (fun op => .ldI op.nnn) ∧
  ∀ (nnn : Addr) (s : State),
    Completes (exec (.ldI nnn) s) fun t =>
      t.I.toNat = nnn.toNat ∧ EndsAs .advanced s t ∧ UnchangedExcept [.I, .pc] s t

/-- R123: `RND Vx, nn` writes the step's random byte ANDed with nn, so no bit outside nn is ever set; the byte is any value, one
per executed `CXNN` (D18), since `rnd` is free in every state. -/
def Obligations.RandomIsMasked : Prop :=
  Encodes 0xF000#16 0xC000#16 (fun op => .rnd op.x op.nn) ∧
  ∀ (x : RegId) (nn : Byte) (s : State),
    Completes (exec (.rnd x nn) s) fun t => WritesReg x (s.rnd &&& nn) s t ∧ t.reg x &&& ~~~nn = 0

/-! ## Register-to-register ALU -/

/-- R132 to R135: assign, OR, AND, XOR, each of the old operands, into Vx alone. That VF is not written is D10, the digits D31. -/
def Obligations.LogicWritesOnlyVx : Prop :=
  (Encodes 0xF00F#16 0x8000#16 (fun op => .ldReg op.x op.y) ∧ Encodes 0xF00F#16 0x8001#16 (fun op => .orReg op.x op.y) ∧
    Encodes 0xF00F#16 0x8002#16 (fun op => .andReg op.x op.y) ∧ Encodes 0xF00F#16 0x8003#16 (fun op => .xorReg op.x op.y)) ∧
  ∀ (x y : RegId) (s : State),
    Completes (exec (.ldReg x y) s) (WritesReg x (s.reg y) s) ∧
    Completes (exec (.orReg x y) s) (WritesReg x (s.reg x ||| s.reg y) s) ∧
    Completes (exec (.andReg x y) s) (WritesReg x (s.reg x &&& s.reg y) s) ∧
    Completes (exec (.xorReg x y) s) (WritesReg x (s.reg x ^^^ s.reg y) s)

/-- R136, R130: `ADD Vx, Vy`: VF is the carry whatever x is, and Vx the sum modulo 256 unless x = F. Reading both operands first is
D11. -/
def Obligations.AddRegistersWithCarry : Prop :=
  Encodes 0xF00F#16 0x8004#16 (fun op => .addReg op.x op.y) ∧
  ∀ (x y : RegId) (s : State),
    Completes (exec (.addReg x y) s) fun t =>
      (t.reg 0xF#4).toNat = (if 256 ≤ (s.reg x).toNat + (s.reg y).toNat then 1 else 0) ∧
      (x ≠ 0xF#4 → (t.reg x).toNat = ((s.reg x).toNat + (s.reg y).toNat) % 256) ∧
      RegsExcept [x, 0xF#4] s t ∧ EndsAs .advanced s t ∧ UnchangedExcept [.V, .pc] s t

/-- R137, R130: `SUB Vx, Vy`: VF is 1 exactly when nothing is borrowed (equal operands borrow nothing: D12; order: D11). -/
def Obligations.SubtractWithBorrow : Prop :=
  Encodes 0xF00F#16 0x8005#16 (fun op => .subReg op.x op.y) ∧
  ∀ (x y : RegId) (s : State),
    Completes (exec (.subReg x y) s) fun t =>
      (t.reg 0xF#4).toNat = (if (s.reg x).toNat < (s.reg y).toNat then 0 else 1) ∧
      (x ≠ 0xF#4 → (t.reg x).toNat = ((s.reg x).toNat + 256 - (s.reg y).toNat) % 256) ∧
      RegsExcept [x, 0xF#4] s t ∧ EndsAs .advanced s t ∧ UnchangedExcept [.V, .pc] s t

/-- R139, R130: `SUBN Vx, Vy`, the operands exchanged (D12, D31). -/
def Obligations.SubtractReversed : Prop :=
  Encodes 0xF00F#16 0x8007#16 (fun op => .subn op.x op.y) ∧
  ∀ (x y : RegId) (s : State),
    Completes (exec (.subn x y) s) fun t =>
      (t.reg 0xF#4).toNat = (if (s.reg y).toNat < (s.reg x).toNat then 0 else 1) ∧
      (x ≠ 0xF#4 → (t.reg x).toNat = ((s.reg y).toNat + 256 - (s.reg x).toNat) % 256) ∧
      RegsExcept [x, 0xF#4] s t ∧ EndsAs .advanced s t ∧ UnchangedExcept [.V, .pc] s t

/-- R138, R88: `SHR Vx` halves Vx and VF is the bit shifted out, whatever y is. That Vx is shifted in place is D9,
that the flag wins where x = F is D11, the digit 6 is D31. -/
def Obligations.ShiftRightEvictsLow : Prop :=
  Encodes 0xF00F#16 0x8006#16 (fun op => .shr op.x op.y) ∧
  ∀ (x y : RegId) (s : State),
    Completes (exec (.shr x y) s) fun t =>
      (t.reg 0xF#4).toNat = (s.reg x).toNat % 2 ∧ (x ≠ 0xF#4 → (t.reg x).toNat = (s.reg x).toNat / 2) ∧
      RegsExcept [x, 0xF#4] s t ∧ EndsAs .advanced s t ∧ UnchangedExcept [.V, .pc] s t

/-- R140, R88: `SHL Vx` doubles Vx modulo 256 and VF is the bit shifted out, whatever y is (D9; flag
last: D11; digit E: D31). -/
def Obligations.ShiftLeftEvictsHigh : Prop :=
  Encodes 0xF00F#16 0x800E#16 (fun op => .shl op.x op.y) ∧
  ∀ (x y : RegId) (s : State),
    Completes (exec (.shl x y) s) fun t =>
      (t.reg 0xF#4).toNat = (s.reg x).toNat / 128 ∧ (x ≠ 0xF#4 → (t.reg x).toNat = (s.reg x).toNat * 2 % 256) ∧
      RegsExcept [x, 0xF#4] s t ∧ EndsAs .advanced s t ∧ UnchangedExcept [.V, .pc] s t

/-! ## Display -/

/-- R151: `CLS` makes all 2048 pixels false, as `framebuffer()` shows them too, and changes nothing else, VF among it. -/
def Obligations.ClearScreen : Prop :=
  Encodes 0xFFFF#16 0x00E0#16 (fun _ => .cls) ∧
  ∀ s : State, Completes (exec .cls s) fun t =>
    (∀ j : Fin 2048, Screen.get t.screen j = false) ∧ t.framebuffer = List.replicate 2048 false ∧ EndsAs .advanced s t ∧
    UnchangedExcept [.screen, .pc] s t

/-- R153, R154: `DRW`: the pixel at each of the 8n positions of the sprite, each coordinate wrapping on its own, is toggled where
the sprite bit is 1; every other pixel is unchanged; VF is 1 exactly when some lit pixel met a 1 bit, and every other register is
unchanged. Row r is the byte at (I + r) mod 4096 (D3); n = 0 draws nothing and VF is 0 (D17).
`framebuffer()` shows the new pixels in index order (R210). -/
def Obligations.DrawTogglesTheSprite : Prop :=
  Encodes 0xF000#16 0xD000#16 (fun op => .drw op.x op.y op.n) ∧
  ∀ (x y : RegId) (n : Nibble) (s : State),
    Completes (exec (.drw x y n) s) fun t =>
      (∀ (r c : Nat) (j : Fin 2048), r < n.toNat → c < 8 →
        j.val = ((s.reg y).toNat + r) % 32 * 64 + ((s.reg x).toNat + c) % 64 →
        Screen.get t.screen j =
          (Screen.get s.screen j ^^ (s.readByte (BitVec.ofNat 12 (s.I.toNat + r))).getLsbD (7 - c))) ∧
      (∀ j : Fin 2048,
        (∀ r c : Nat, r < n.toNat → c < 8 → j.val ≠ ((s.reg y).toNat + r) % 32 * 64 + ((s.reg x).toNat + c) % 64) →
        Screen.get t.screen j = Screen.get s.screen j) ∧
      (t.reg 0xF#4 = 0#8 ∨ t.reg 0xF#4 = 1#8) ∧
      (t.reg 0xF#4 = 1#8 ↔ ∃ (r c : Nat) (j : Fin 2048), r < n.toNat ∧ c < 8 ∧
        j.val = ((s.reg y).toNat + r) % 32 * 64 + ((s.reg x).toNat + c) % 64 ∧ Screen.get s.screen j = true ∧
        (s.readByte (BitVec.ofNat 12 (s.I.toNat + r))).getLsbD (7 - c) = true) ∧
      t.framebuffer.length = 2048 ∧ (∀ j : Fin 2048, t.framebuffer[j.val]? = some (Screen.get t.screen j)) ∧
      RegsExcept [0xF#4] s t ∧ EndsAs .advanced s t ∧ UnchangedExcept [.V, .pc, .screen] s t

/-- R155: drawing the same sprite at the same place twice gives the screen of before the first draw, and the second draw reports a
collision exactly when the first turned some pixel on. x and y are not F, since the first draw writes VF. -/
def Obligations.DoubleDrawRestoresTheScreen : Prop :=
  ∀ (x y : RegId) (n : Nibble) (s : State), x ≠ 0xF#4 → y ≠ 0xF#4 →
    Completes (exec (.drw x y n) s) fun t =>
      Completes (exec (.drw x y n) t) fun u =>
        (∀ j : Fin 2048, Screen.get u.screen j = Screen.get s.screen j) ∧
        (u.reg 0xF#4 = 1#8 ↔ ∃ j : Fin 2048, Screen.get s.screen j = false ∧ Screen.get t.screen j = true)

/-! ## Keypad -/

/-- R160, R161: the keypad skips query the key Vx[3:0] (D15), once, and are each other's complement. -/
def Obligations.SkipOnKey : Prop :=
  Encodes 0xF0FF#16 0xE09E#16 (fun op => .skp op.x) ∧ Encodes 0xF0FF#16 0xE0A1#16 (fun op => .sknp op.x) ∧
  ∀ (x : RegId) (s : State),
    (Completes (exec (.skp x) s) fun t =>
      EndsAs (if s.keys.getLsbD ((s.reg x).toNat % 16) = true then .skipped else .advanced) s t ∧ UnchangedExcept [.pc] s t) ∧
    (Completes (exec (.sknp x) s) fun t =>
      EndsAs (if s.keys.getLsbD ((s.reg x).toNat % 16) = true then .advanced else .skipped) s t ∧ UnchangedExcept [.pc] s t)

/-- R162: `LD Vx, K` with a key event stores the key's number and runs on; without one it waits at the same pc, changing nothing
but `run_state`. The polled form is D16, the value stored D34. -/
def Obligations.WaitForKey : Prop :=
  Encodes 0xF0FF#16 0xF00A#16 (fun op => .ldVxK op.x) ∧
  ∀ (x : RegId) (s : State),
    (∀ k : Key, s.keyEvent = some k →
      Completes (exec (.ldVxK x) s) fun t =>
        (t.reg x).toNat = k.toNat ∧ RegsExcept [x] s t ∧ t.runState = .running ∧ EndsAs .advanced s t ∧
        UnchangedExcept [.V, .pc, .runState] s t) ∧
    (s.keyEvent = none →
      Completes (exec (.ldVxK x) s) fun t =>
        t.runState = .awaitingKey ∧ EndsAs .waiting s t ∧ UnchangedExcept [.runState] s t)

/-- R212, R247: in a reachable state that awaits a key, a step fetches the same word at the same pc and executes the same `FX0A`
again, after the host's ticks and with fresh inputs. -/
def Obligations.AwaitingStepWaitsAgain : Prop :=
  ∀ s : State, s.Inv → s.runState = .awaitingKey →
    step s = exec (.ldVxK s.opcode.x) { s.hostTurn with opcode := s.opcode }

/-! ## Timers -/

/-- R170: `LD Vx, DT`. -/
def Obligations.ReadDelayTimer : Prop :=
  Encodes 0xF0FF#16 0xF007#16 (fun op => .ldVxDt op.x) ∧
  ∀ (x : RegId) (s : State),
    Completes (exec (.ldVxDt x) s) (WritesReg x s.DT s)

/-- R171: `LD DT, Vx`, whatever the count was; the host reads it through `delay()`; the first tick after it takes the timer from v to v - 1. -/
def Obligations.SetDelayTimer : Prop :=
  Encodes 0xF0FF#16 0xF015#16 (fun op => .ldDtVx op.x) ∧
  ∀ (x : RegId) (s : State),
    Completes (exec (.ldDtVx x) s) fun t =>
      t.DT = s.reg x ∧ t.delay = s.reg x ∧ EndsAs .advanced s t ∧ UnchangedExcept [.DT, .pc] s t ∧
      (t.runState ≠ .halted → t.tickTimers.DT.toNat = (s.reg x).toNat - 1)

/-- R172: `LD ST, Vx`; the host reads the number through `sound()`. -/
def Obligations.SetSoundTimer : Prop :=
  Encodes 0xF0FF#16 0xF018#16 (fun op => .ldStVx op.x) ∧
  ∀ (x : RegId) (s : State),
    Completes (exec (.ldStVx x) s) fun t =>
      t.ST = s.reg x ∧ t.sound = s.reg x ∧ EndsAs .advanced s t ∧ UnchangedExcept [.ST, .pc] s t

/-- R173: a tick takes each nonzero timer down by one, leaves a timer at 0 at 0, and writes nothing else; in Halted it does nothing
(D26). -/
def Obligations.TickCountsDown : Prop :=
  ∀ s : State, Completes (HostOp.tickTimers.apply s) fun t =>
    UnchangedExcept [.DT, .ST] s t ∧ t.result = s.result ∧
    (s.runState ≠ .halted → t.DT.toNat = s.DT.toNat - 1 ∧ t.ST.toNat = s.ST.toNat - 1) ∧
    (s.runState = .halted → t.DT = s.DT ∧ t.ST = s.ST)

/-! ## Index register and memory -/

/-- R181: `ADD I, Vx` wraps modulo 4096 and sets no flag. -/
def Obligations.AddToIndexWraps : Prop :=
  Encodes 0xF0FF#16 0xF01E#16 (fun op => .addI op.x) ∧
  ∀ (x : RegId) (s : State),
    Completes (exec (.addI x) s) fun t =>
      t.I.toNat = (s.I.toNat + (s.reg x).toNat) % 4096 ∧ EndsAs .advanced s t ∧ UnchangedExcept [.I, .pc] s t

/-- R182: `LD F, Vx`: I is five times the whole byte Vx (D14). -/
def Obligations.PointAtGlyph : Prop :=
  Encodes 0xF0FF#16 0xF029#16 (fun op => .ldF op.x) ∧
  ∀ (x : RegId) (s : State),
    Completes (exec (.ldF x) s) fun t =>
      t.I.toNat = 5 * (s.reg x).toNat ∧ EndsAs .advanced s t ∧ UnchangedExcept [.I, .pc] s t

/-- R183, R58: `LD B, Vx` stores the three decimal digits at (I + 0), (I + 1), (I + 2) mod 4096 (D3) and changes no other byte.
Reading the stored bytes back needs memory in its canonical form, which every reachable state has. -/
def Obligations.StoreDecimalDigits : Prop :=
  Encodes 0xF0FF#16 0xF033#16 (fun op => .ldB op.x) ∧
  ∀ (x : RegId) (s : State),
    Completes (exec (.ldB x) s) fun t =>
      (s.ram.wf = true →
        (t.readByte (s.ea 0)).toNat = (s.reg x).toNat / 100 ∧
        (t.readByte (s.ea 1)).toNat = (s.reg x).toNat / 10 % 10 ∧
        (t.readByte (s.ea 2)).toNat = (s.reg x).toNat % 10) ∧
      (∀ k : Nat, (s.ea k).toNat = (s.I.toNat + k) % 4096) ∧
      (∀ a : Addr, a ≠ s.ea 0 → a ≠ s.ea 1 → a ≠ s.ea 2 → t.readByte a = s.readByte a) ∧
      EndsAs .advanced s t ∧ UnchangedExcept [.ram, .pc] s t

/-- R184, R186, R58: `LD [I], Vx` stores V0 to Vx at (I + 0) to (I + x) mod 4096 (D3), changes no other byte, and moves I past the
block, masked to 12 bits (D13). -/
def Obligations.StoreRegisterBlock : Prop :=
  Encodes 0xF0FF#16 0xF055#16 (fun op => .storeRegs op.x) ∧
  ∀ (x : RegId) (s : State),
    Completes (exec (.storeRegs x) s) fun t =>
      (s.ram.wf = true → ∀ r : RegId, r.toNat ≤ x.toNat → t.readByte (s.ea r.toNat) = s.reg r) ∧
      (∀ k : Nat, (s.ea k).toNat = (s.I.toNat + k) % 4096) ∧
      (∀ a : Addr, (∀ k : Nat, k ≤ x.toNat → a ≠ s.ea k) → t.readByte a = s.readByte a) ∧
      t.I.toNat = (s.I.toNat + x.toNat + 1) % 4096 ∧ EndsAs .advanced s t ∧ UnchangedExcept [.ram, .I, .pc] s t

/-- R185, R186, R58: `LD Vx, [I]` loads V0 to Vx from (I + 0) to (I + x) mod 4096 (D3), leaves the registers above Vx and all of
memory, and moves I past the block (D13). -/
def Obligations.LoadRegisterBlock : Prop :=
  Encodes 0xF0FF#16 0xF065#16 (fun op => .loadRegs op.x) ∧
  ∀ (x : RegId) (s : State),
    Completes (exec (.loadRegs x) s) fun t =>
      (∀ r : RegId, r.toNat ≤ x.toNat → t.reg r = s.readByte (BitVec.ofNat 12 (s.I.toNat + r.toNat))) ∧
      (∀ r : RegId, x.toNat < r.toNat → t.reg r = s.reg r) ∧
      t.I.toNat = (s.I.toNat + x.toNat + 1) % 4096 ∧ EndsAs .advanced s t ∧ UnchangedExcept [.V, .I, .pc] s t

/-- 95_test_vectors.md S10: a block stored and loaded back from the same I, whatever the registers hold in between, restores V0 to
Vx, and I moves by x + 1 each time. -/
def Obligations.StoreThenLoadRestores : Prop :=
  ∀ (x : RegId) (s : State), s.ram.wf = true →
    Completes (exec (.storeRegs x) s) fun t =>
      ∀ u : State, u.ram = t.ram → u.I = s.I →
        Completes (exec (.loadRegs x) u) fun w => (∀ r : RegId, r.toNat ≤ x.toNat → w.reg r = s.reg r) ∧ w.I = t.I

/-- R64: a store by `FX33` or `FX55` is seen by every later fetch from the memory it left, that of the very next step among them:
each of the two bytes of the word, on its own, is the stored one where the store wrote its address, and the byte of before where it
did not. That the byte at pc is the high one is D1, the addresses of the stored bytes D3. -/
def Obligations.StoredWordIsFetchedNext : Prop :=
  ∀ (x : RegId) (s : State), s.ram.wf = true →
    (Completes (exec (.ldB x) s) fun t =>
      ∀ u : State, u.ram = t.ram →
        FetchSees s 3 (fun k => BitVec.ofNat 8 ((s.reg x).toNat / 10 ^ (2 - k) % 10)) u) ∧
    (Completes (exec (.storeRegs x) s) fun t =>
      ∀ u : State, u.ram = t.ram → FetchSees s (x.toNat + 1) (fun k => s.reg (BitVec.ofNat 4 k)) u)

/-! ## The cycle and the host's operations -/

/-- R204, R206, R207: a step runs the decoded instruction. The host's turn stands around it: the free ticks and the free inputs of
Config (the model's own, notes/assumptions/1.md to 3.md); then the two bytes at pc, big-endian (D1), are latched and executed. -/
def Obligations.StepRunsTheDecodedInstruction : Prop :=
  ∀ (s : State) (i : Instr), s.runState ≠ .halted → s.pc ≤ 0x0FFE#16 →
    decode [s.readByte (BitVec.ofNat 12 s.pc.toNat), s.readByte (BitVec.ofNat 12 (s.pc.toNat + 1))] = .ok (i, []) →
    step s = exec i { s.hostTurn with
      opcode := s.readByte (BitVec.ofNat 12 s.pc.toNat) ++ s.readByte (BitVec.ofNat 12 (s.pc.toNat + 1)) }

/-- R174, R211: one turn of the model is `tick_timers` any number of times, then the spec's `step` with the inputs of that turn. -/
def Obligations.TurnIsTicksThenStep : Prop :=
  ∀ s : State, step s = (HostOp.step (freeInputs s.turn)).apply
    { State.tickTimers^[Config.ticks s.turn] s with turn := s.turn + 1 }

/-- R240, R86: a step on an unrecognised word reports it and advances by 2, writing nothing else but `opcode`; the report as a
Boolean of the result is D24. Stated of the spec's `step` with any inputs. -/
def Obligations.UnrecognizedOnlyAdvances : Prop :=
  ∀ (s : State) (inp : StepInputs), s.runState ≠ .halted → s.pc ≤ 0x0FFE#16 → decodeWord s.fetchWord = none →
    Completes ((HostOp.step inp).apply s) fun t =>
      t.opcode = s.fetchWord ∧ t.pc = s.pc + 2 ∧ t.result = some (.ok .advanced true) ∧
      UnchangedExcept [.opcode, .pc, .inputs] s t

/-- R56, R234, R237: a step whose pc is above 0x0FFE takes AddressFault, and `opcode`, pc and all else keep their values. The bound
is D4, the Halted state D20. -/
def Obligations.FetchPastMemoryFaults : Prop :=
  ∀ (s : State) (inp : StepInputs), s.runState ≠ .halted → 0x0FFE#16 < s.pc →
    Completes ((HostOp.step inp).apply s) fun t =>
      t.runState = .halted ∧ t.fault = .addressFault ∧ t.result = some (.err .addressFault (some s.pc.toNat)) ∧
      UnchangedExcept [.runState, .fault, .inputs] s t

/-- R213, R238: in Halted no operation but `new` changes the machine, and a step returns the latched fault again (D20, D26). -/
def Obligations.HaltedIsFrozen : Prop :=
  ∀ (s : State) (op : HostOp), s.runState = .halted → op ≠ .new →
    Completes (op.apply s) fun t =>
      UnchangedExcept [.inputs] s t ∧ (∀ inp, op = .step inp → t.result = some (.err s.fault none)) ∧
      (∀ data, op = .loadRom data → (s.loadRom data).2 = .err s.fault none)

/-- R213, R238: a run of any length from a Halted state leaves the machine as it is. -/
def Obligations.HaltedRunChangesNothing : Prop :=
  ∀ (n : Nat) (s : State), s.runState = .halted →
    ∃ t : State, core.run n s = .next t ∧ UnchangedExcept [.inputs] s t

/-- R36, R201, R260: `new` gives every element its reset value from any state; the memory is `FONT` at 0x000 to 0x04F and 0
elsewhere. I, opcode, DT, ST and the rest of memory are zero by D21. -/
def Obligations.NewResetsEverything : Prop :=
  ∀ s : State, Completes (HostOp.new.apply s) fun t =>
    (∀ r : RegId, t.reg r = 0) ∧ t.pc = 0x0200#16 ∧ t.I = 0 ∧ (∀ j : Fin 16, t.stack[j] = 0) ∧ t.sp.val = 0 ∧ t.opcode = 0 ∧
    t.DT = 0 ∧ t.ST = 0 ∧ (∀ j : Fin 2048, Screen.get t.screen j = false) ∧
    (∀ (a : Addr) (j : Fin 80), a.toNat = j.val → t.readByte a = Config.font j) ∧
    (∀ a : Addr, 80 ≤ a.toNat → t.readByte a = 0) ∧ t.runState = .running ∧ t.fault = .none

/-- R202, R235: `load_rom` copies byte j to 0x200 + j and changes no other byte and nothing else, for at most 3584 bytes; a longer
ROM copies nothing and takes RomTooLarge (the Halted state is D20, D23). -/
def Obligations.LoadRomCopiesOrFaults : Prop :=
  ∀ (s : State) (data : List Byte), s.runState ≠ .halted → s.ram.wf = true →
    (data.length ≤ 3584 →
      (s.loadRom data).2 = .ok ∧
      Completes ((HostOp.loadRom data).apply s) fun t =>
        (∀ (a : Addr) (j : Fin data.length), a.toNat = 0x200 + j.val → t.readByte a = data[j]) ∧
        (∀ a : Addr, a.toNat < 0x200 ∨ 0x200 + data.length ≤ a.toNat → t.readByte a = s.readByte a) ∧
        UnchangedExcept [.ram] s t) ∧
    (3584 < data.length →
      (s.loadRom data).2 = .err .romTooLarge (some data.length) ∧
      Completes ((HostOp.loadRom data).apply s) fun t =>
        t.runState = .halted ∧ t.fault = .romTooLarge ∧ UnchangedExcept [.runState, .fault] s t)

/-- R102, R214: at a jump to its own address a step changes nothing but `opcode` (and what the host's turn changes: the timers count
down by its ticks, and new inputs are presented). -/
def Obligations.SelfJumpStays : Prop :=
  ∀ (s : State) (inp : StepInputs), s.runState ≠ .halted → s.pc ≤ 0x0FFE#16 → s.fetchWord = 0x1000#16 ||| s.pc →
    Completes ((HostOp.step inp).apply s) fun t =>
      t.opcode = s.fetchWord ∧ t.result = some (.ok .jumped false) ∧ UnchangedExcept [.opcode, .inputs] s t

/-! ## Rules over all instructions -/

/-- R54, R31, R59: only `FX33` and `FX55` change memory, and only `00E0` and `DXYN` change the screen. -/
def Obligations.OnlyStoresWriteMemory : Prop :=
  ∀ (i : Instr) (s t : State), exec i s = .next t →
    ((∃ a : Addr, t.readByte a ≠ s.readByte a) → ∃ x, i = .ldB x ∨ i = .storeRegs x) ∧
    ((∃ j : Fin 2048, Screen.get t.screen j ≠ Screen.get s.screen j) → i = .cls ∨ ∃ x y n, i = .drw x y n)

/-- R24, R25, R27, R30: which instructions write the stack, sp, I and the timers; none writes `opcode` or the inputs. -/
def Obligations.SpecialRegistersHaveTheirWriters : Prop :=
  ∀ (i : Instr) (s t : State), exec i s = .next t →
    (t.stack ≠ s.stack → ∃ nnn, i = .call nnn) ∧
    (t.sp ≠ s.sp → i = .ret ∨ ∃ nnn, i = .call nnn) ∧
    (t.I ≠ s.I → (∃ nnn, i = .ldI nnn) ∨ ∃ x, i = .addI x ∨ i = .ldF x ∨ i = .storeRegs x ∨ i = .loadRegs x) ∧
    (t.DT ≠ s.DT → ∃ x, i = .ldDtVx x) ∧
    (t.ST ≠ s.ST → ∃ x, i = .ldStVx x) ∧
    t.opcode = s.opcode ∧ Agree .inputs s t

/-- R20, R21, R271: a register changes only where the instruction's rule names it as its destination, or is VF under one of the six
instructions that have a flag. That the four logic instructions are not among the six is D10. -/
def Obligations.OnlyNamedRegistersChange : Prop :=
  ∀ (i : Instr) (s t : State) (r : RegId), exec i s = .next t → t.reg r ≠ s.reg r → mayWriteReg i r = true

/-- R28, R29: `run_state` and `fault` change only by `FX0A` (without a fault) and by the two stack faults, each from the condition
its rule gives. -/
def Obligations.RunStateTransitions : Prop :=
  ∀ (i : Instr) (s t : State), exec i s = .next t →
    (t.runState = s.runState ∧ t.fault = s.fault) ∨
    ((∃ x, i = .ldVxK x) ∧ t.fault = s.fault ∧ t.runState = (if s.keyEvent = none then .awaitingKey else .running)) ∨
    (i = .ret ∧ s.sp.val = 0 ∧ t.runState = .halted ∧ t.fault = .stackUnderflow) ∨
    ((∃ nnn, i = .call nnn) ∧ s.sp.val = 16 ∧ t.runState = .halted ∧ t.fault = .stackOverflow)

/-- R203: an instruction depends on an input only if its rule reads it: `keys` only `EX9E` and `EXA1`, `key_event` only `FX0A`,
`rnd` only `CXNN`. Presenting other values of the inputs it does not read gives the same next state but for those inputs. -/
def Obligations.UnreadInputsDoNotMatter : Prop :=
  ∀ (i : Instr) (s t : State) (inp : StepInputs),
    (readsKeys i → inp.keys = s.keys) → (readsKeyEvent i → inp.keyEvent = s.keyEvent) → (readsRnd i → inp.rnd = s.rnd) →
    exec i s = .next t → exec i (s.present inp) = .next (t.present inp)

/-- R207, R236, R240: every step has a next state, from every state: a fatal fault is the Halted state, and no opcode stops the
model (that a fault is a next state is the model's reading of R236, notes/assumptions/6.md). -/
def Obligations.EveryStepGoesOn : Prop :=
  (∀ (i : Instr) (s : State), ∃ t, exec i s = .next t) ∧ ∀ s : State, ∃ t, step s = .next t

/-! ## Invariants -/

/-- R35, R36: the reset state meets the invariant. -/
def Obligations.ResetMeetsTheInvariant : Prop := State.reset.Inv

/-- R35: every step keeps the invariant, from every state that meets it, whatever the host's ticks and inputs. -/
def Obligations.StepKeepsTheInvariant : Prop :=
  ∀ s t : State, s.Inv → step s = .next t → t.Inv

/-- R35, R200: every host operation keeps the invariant: `new`, `tick_timers`, `step` with any inputs, and `load_rom` of any
length where the machine is not waiting for a key (a ROM loaded over a waiting `FX0A` is outside the contract of R202). -/
def Obligations.OperationsKeepTheInvariant : Prop :=
  ∀ (op : HostOp) (s t : State), s.Inv → (∀ data, op = .loadRom data → s.runState ≠ .awaitingKey) →
    op.apply s = .next t → t.Inv
end

