-- ==== Sys2Proof/Laws/Decode.lean ====
section
/-! SUPPORT. The fields of an opcode under the operations of R83 (mask and match) and R92 (place and OR). -/

namespace Sys2Proof

theorem Word.n0_and (a b : Word) : Word.n0 (a &&& b) = Word.n0 a &&& Word.n0 b := BitVec.extractLsb'_and ..
theorem Word.n3_and (a b : Word) : Word.n3 (a &&& b) = Word.n3 a &&& Word.n3 b := BitVec.extractLsb'_and ..
theorem Word.nn_and (a b : Word) : Word.nn (a &&& b) = Word.nn a &&& Word.nn b := BitVec.extractLsb'_and ..

theorem Word.n0_or (a b : Word) : Word.n0 (a ||| b) = Word.n0 a ||| Word.n0 b := BitVec.extractLsb'_or ..
theorem Word.n1_or (a b : Word) : Word.n1 (a ||| b) = Word.n1 a ||| Word.n1 b := BitVec.extractLsb'_or ..
theorem Word.n2_or (a b : Word) : Word.n2 (a ||| b) = Word.n2 a ||| Word.n2 b := BitVec.extractLsb'_or ..
theorem Word.n3_or (a b : Word) : Word.n3 (a ||| b) = Word.n3 a ||| Word.n3 b := BitVec.extractLsb'_or ..
theorem Word.nn_or (a b : Word) : Word.nn (a ||| b) = Word.nn a ||| Word.nn b := BitVec.extractLsb'_or ..
theorem Word.nnn_or (a b : Word) : Word.nnn (a ||| b) = Word.nnn a ||| Word.nnn b := BitVec.extractLsb'_or ..

/-- A mask whose n0 is all ones fixes the major opcode. -/
theorem Word.n0_of_mask (op m p : Word) (hm : Word.n0 m = 0xF#4) (h : op &&& m = p) : Word.n0 op = Word.n0 p := by
  rw [← h, Word.n0_and, hm]
  exact (BitVec.and_allOnes (x := Word.n0 op)).symm

/-- A mask whose n3 is all ones fixes the function digit. -/
theorem Word.n3_of_mask (op m p : Word) (hm : Word.n3 m = 0xF#4) (h : op &&& m = p) : Word.n3 op = Word.n3 p := by
  rw [← h, Word.n3_and, hm]
  exact (BitVec.and_allOnes (x := Word.n3 op)).symm

/-- A mask whose low byte is all ones fixes the function byte. -/
theorem Word.nn_of_mask (op m p : Word) (hm : Word.nn m = 0xFF#8) (h : op &&& m = p) : Word.nn op = Word.nn p := by
  rw [← h, Word.nn_and, hm]
  exact (BitVec.and_allOnes (x := Word.nn op)).symm

/-! ### The fields of a placed operand -/

@[simp] theorem n0_placeX : ∀ x : RegId, Word.n0 (placeX x) = 0#4 := by decide
@[simp] theorem n1_placeX : ∀ x : RegId, Word.n1 (placeX x) = x := by decide
@[simp] theorem n2_placeX : ∀ x : RegId, Word.n2 (placeX x) = 0#4 := by decide
@[simp] theorem n3_placeX : ∀ x : RegId, Word.n3 (placeX x) = 0#4 := by decide
@[simp] theorem nn_placeX : ∀ x : RegId, Word.nn (placeX x) = 0#8 := by decide
@[simp] theorem n0_placeY : ∀ y : RegId, Word.n0 (placeY y) = 0#4 := by decide
@[simp] theorem n1_placeY : ∀ y : RegId, Word.n1 (placeY y) = 0#4 := by decide
@[simp] theorem n2_placeY : ∀ y : RegId, Word.n2 (placeY y) = y := by decide
@[simp] theorem n3_placeY : ∀ y : RegId, Word.n3 (placeY y) = 0#4 := by decide
@[simp] theorem n0_placeN : ∀ n : Nibble, Word.n0 (placeN n) = 0#4 := by decide
@[simp] theorem n1_placeN : ∀ n : Nibble, Word.n1 (placeN n) = 0#4 := by decide
@[simp] theorem n2_placeN : ∀ n : Nibble, Word.n2 (placeN n) = 0#4 := by decide
@[simp] theorem n3_placeN : ∀ n : Nibble, Word.n3 (placeN n) = n := by decide

@[simp] theorem n0_placeNN (nn : Byte) : Word.n0 (placeNN nn) = 0#4 := by
  apply BitVec.eq_of_getLsbD_eq
  intro i hi
  interval_cases i <;> simp [Word.n0, placeNN]

@[simp] theorem n1_placeNN (nn : Byte) : Word.n1 (placeNN nn) = 0#4 := by
  apply BitVec.eq_of_getLsbD_eq
  intro i hi
  interval_cases i <;> simp [Word.n1, placeNN]

@[simp] theorem nn_placeNN (nn : Byte) : Word.nn (placeNN nn) = nn := by
  apply BitVec.eq_of_getLsbD_eq
  intro i hi
  have : i < 16 := by omega
  simp [Word.nn, placeNN, hi, this]

@[simp] theorem n0_placeNNN (nnn : Addr) : Word.n0 (placeNNN nnn) = 0#4 := by
  apply BitVec.eq_of_getLsbD_eq
  intro i hi
  interval_cases i <;> simp [Word.n0, placeNNN]

@[simp] theorem nnn_placeNNN (nnn : Addr) : Word.nnn (placeNNN nnn) = nnn := by
  apply BitVec.eq_of_getLsbD_eq
  intro i hi
  have : i < 16 := by omega
  simp [Word.nnn, placeNNN, hi, this]

/-- Masking a placed operand with a mask that has no bit in its field leaves nothing. -/
theorem placeX_and : ∀ x : RegId, placeX x &&& 0xF0FF#16 = 0#16 := by decide
theorem placeX_andF : ∀ x : RegId, placeX x &&& 0xF00F#16 = 0#16 := by decide
theorem placeY_andF : ∀ y : RegId, placeY y &&& 0xF00F#16 = 0#16 := by decide
theorem placeX_and12 : ∀ x : RegId, placeX x &&& 0xF000#16 = 0#16 := by decide
theorem placeY_and12 : ∀ y : RegId, placeY y &&& 0xF000#16 = 0#16 := by decide
theorem placeN_and12 : ∀ n : Nibble, placeN n &&& 0xF000#16 = 0#16 := by decide

theorem placeNNN_and (nnn : Addr) : placeNNN nnn &&& 0xF000#16 = 0#16 := by
  apply BitVec.eq_of_getLsbD_eq
  intro i hi
  simp only [placeNNN, BitVec.getLsbD_and, BitVec.getLsbD_setWidth]
  interval_cases i <;> simp

theorem placeNN_and (nn : Byte) : placeNN nn &&& 0xF000#16 = 0#16 := by
  apply BitVec.eq_of_getLsbD_eq
  intro i hi
  simp only [placeNN, BitVec.getLsbD_and, BitVec.getLsbD_setWidth]
  interval_cases i <;> simp

/-- AND distributes over OR. -/
theorem or_and (a b m : Word) : (a ||| b) &&& m = (a &&& m) ||| (b &&& m) := BitVec.and_or_distrib_right ..

/-! ### An opcode is its four nibbles -/

theorem word_of_nibbles (op : Word) :
    op = (op.n0.setWidth 16 <<< 12) ||| (op.n1.setWidth 16 <<< 8) ||| (op.n2.setWidth 16 <<< 4) ||| op.n3.setWidth 16 := by
  apply BitVec.eq_of_getLsbD_eq
  intro i hi
  interval_cases i <;> simp [Word.n0, Word.n1, Word.n2, Word.n3]

theorem placeNN_of_nibbles (op : Word) : placeNN op.nn = (op.n2.setWidth 16 <<< 4) ||| op.n3.setWidth 16 := by
  apply BitVec.eq_of_getLsbD_eq
  intro i hi
  interval_cases i <;> simp [placeNN, Word.nn, Word.n2, Word.n3]

theorem placeNNN_of_nibbles (op : Word) :
    placeNNN op.nnn = (op.n1.setWidth 16 <<< 8) ||| (op.n2.setWidth 16 <<< 4) ||| op.n3.setWidth 16 := by
  apply BitVec.eq_of_getLsbD_eq
  intro i hi
  interval_cases i <;> simp [placeNNN, Word.nnn, Word.n1, Word.n2, Word.n3]

end Sys2Proof
end

