-- ==== Sys2Proof/Laws/State.lean ====
section
/-! SUPPORT. The small lemmas of every update of the state: one per field and update, true by rfl, so that no proof unfolds a record
update. At the end, the same for the accessors `reg`, `readByte` and `ea`. -/

namespace Sys2Proof.Machine

variable (s : State)

/-! ### setReg -/

@[simp] theorem setReg_V (x : RegId) (v : Byte) : (s.setReg x v).V = s.V.set x.toNat v (regId_lt x) := rfl
@[simp] theorem setReg_pc (x : RegId) (v : Byte) : (s.setReg x v).pc = s.pc := rfl
@[simp] theorem setReg_I (x : RegId) (v : Byte) : (s.setReg x v).I = s.I := rfl
@[simp] theorem setReg_stack (x : RegId) (v : Byte) : (s.setReg x v).stack = s.stack := rfl
@[simp] theorem setReg_sp (x : RegId) (v : Byte) : (s.setReg x v).sp = s.sp := rfl
@[simp] theorem setReg_opcode (x : RegId) (v : Byte) : (s.setReg x v).opcode = s.opcode := rfl
@[simp] theorem setReg_DT (x : RegId) (v : Byte) : (s.setReg x v).DT = s.DT := rfl
@[simp] theorem setReg_ST (x : RegId) (v : Byte) : (s.setReg x v).ST = s.ST := rfl
@[simp] theorem setReg_screen (x : RegId) (v : Byte) : (s.setReg x v).screen = s.screen := rfl
@[simp] theorem setReg_ram (x : RegId) (v : Byte) : (s.setReg x v).ram = s.ram := rfl
@[simp] theorem setReg_runState (x : RegId) (v : Byte) : (s.setReg x v).runState = s.runState := rfl
@[simp] theorem setReg_fault (x : RegId) (v : Byte) : (s.setReg x v).fault = s.fault := rfl
@[simp] theorem setReg_keys (x : RegId) (v : Byte) : (s.setReg x v).keys = s.keys := rfl
@[simp] theorem setReg_keyEvent (x : RegId) (v : Byte) : (s.setReg x v).keyEvent = s.keyEvent := rfl
@[simp] theorem setReg_rnd (x : RegId) (v : Byte) : (s.setReg x v).rnd = s.rnd := rfl
@[simp] theorem setReg_turn (x : RegId) (v : Byte) : (s.setReg x v).turn = s.turn := rfl
@[simp] theorem setReg_result (x : RegId) (v : Byte) : (s.setReg x v).result = s.result := rfl

/-! ### setPc -/

@[simp] theorem setPc_V (v : Word) : (s.setPc v).V = s.V := rfl
@[simp] theorem setPc_pc (v : Word) : (s.setPc v).pc = v := rfl
@[simp] theorem setPc_I (v : Word) : (s.setPc v).I = s.I := rfl
@[simp] theorem setPc_stack (v : Word) : (s.setPc v).stack = s.stack := rfl
@[simp] theorem setPc_sp (v : Word) : (s.setPc v).sp = s.sp := rfl
@[simp] theorem setPc_opcode (v : Word) : (s.setPc v).opcode = s.opcode := rfl
@[simp] theorem setPc_DT (v : Word) : (s.setPc v).DT = s.DT := rfl
@[simp] theorem setPc_ST (v : Word) : (s.setPc v).ST = s.ST := rfl
@[simp] theorem setPc_screen (v : Word) : (s.setPc v).screen = s.screen := rfl
@[simp] theorem setPc_ram (v : Word) : (s.setPc v).ram = s.ram := rfl
@[simp] theorem setPc_runState (v : Word) : (s.setPc v).runState = s.runState := rfl
@[simp] theorem setPc_fault (v : Word) : (s.setPc v).fault = s.fault := rfl
@[simp] theorem setPc_keys (v : Word) : (s.setPc v).keys = s.keys := rfl
@[simp] theorem setPc_keyEvent (v : Word) : (s.setPc v).keyEvent = s.keyEvent := rfl
@[simp] theorem setPc_rnd (v : Word) : (s.setPc v).rnd = s.rnd := rfl
@[simp] theorem setPc_turn (v : Word) : (s.setPc v).turn = s.turn := rfl
@[simp] theorem setPc_result (v : Word) : (s.setPc v).result = s.result := rfl

/-! ### setI -/

@[simp] theorem setI_V (v : Word) : (s.setI v).V = s.V := rfl
@[simp] theorem setI_pc (v : Word) : (s.setI v).pc = s.pc := rfl
@[simp] theorem setI_I (v : Word) : (s.setI v).I = v := rfl
@[simp] theorem setI_stack (v : Word) : (s.setI v).stack = s.stack := rfl
@[simp] theorem setI_sp (v : Word) : (s.setI v).sp = s.sp := rfl
@[simp] theorem setI_opcode (v : Word) : (s.setI v).opcode = s.opcode := rfl
@[simp] theorem setI_DT (v : Word) : (s.setI v).DT = s.DT := rfl
@[simp] theorem setI_ST (v : Word) : (s.setI v).ST = s.ST := rfl
@[simp] theorem setI_screen (v : Word) : (s.setI v).screen = s.screen := rfl
@[simp] theorem setI_ram (v : Word) : (s.setI v).ram = s.ram := rfl
@[simp] theorem setI_runState (v : Word) : (s.setI v).runState = s.runState := rfl
@[simp] theorem setI_fault (v : Word) : (s.setI v).fault = s.fault := rfl
@[simp] theorem setI_keys (v : Word) : (s.setI v).keys = s.keys := rfl
@[simp] theorem setI_keyEvent (v : Word) : (s.setI v).keyEvent = s.keyEvent := rfl
@[simp] theorem setI_rnd (v : Word) : (s.setI v).rnd = s.rnd := rfl
@[simp] theorem setI_turn (v : Word) : (s.setI v).turn = s.turn := rfl
@[simp] theorem setI_result (v : Word) : (s.setI v).result = s.result := rfl

/-! ### setDT -/

@[simp] theorem setDT_V (v : Byte) : (s.setDT v).V = s.V := rfl
@[simp] theorem setDT_pc (v : Byte) : (s.setDT v).pc = s.pc := rfl
@[simp] theorem setDT_I (v : Byte) : (s.setDT v).I = s.I := rfl
@[simp] theorem setDT_stack (v : Byte) : (s.setDT v).stack = s.stack := rfl
@[simp] theorem setDT_sp (v : Byte) : (s.setDT v).sp = s.sp := rfl
@[simp] theorem setDT_opcode (v : Byte) : (s.setDT v).opcode = s.opcode := rfl
@[simp] theorem setDT_DT (v : Byte) : (s.setDT v).DT = v := rfl
@[simp] theorem setDT_ST (v : Byte) : (s.setDT v).ST = s.ST := rfl
@[simp] theorem setDT_screen (v : Byte) : (s.setDT v).screen = s.screen := rfl
@[simp] theorem setDT_ram (v : Byte) : (s.setDT v).ram = s.ram := rfl
@[simp] theorem setDT_runState (v : Byte) : (s.setDT v).runState = s.runState := rfl
@[simp] theorem setDT_fault (v : Byte) : (s.setDT v).fault = s.fault := rfl
@[simp] theorem setDT_keys (v : Byte) : (s.setDT v).keys = s.keys := rfl
@[simp] theorem setDT_keyEvent (v : Byte) : (s.setDT v).keyEvent = s.keyEvent := rfl
@[simp] theorem setDT_rnd (v : Byte) : (s.setDT v).rnd = s.rnd := rfl
@[simp] theorem setDT_turn (v : Byte) : (s.setDT v).turn = s.turn := rfl
@[simp] theorem setDT_result (v : Byte) : (s.setDT v).result = s.result := rfl

/-! ### setST -/

@[simp] theorem setST_V (v : Byte) : (s.setST v).V = s.V := rfl
@[simp] theorem setST_pc (v : Byte) : (s.setST v).pc = s.pc := rfl
@[simp] theorem setST_I (v : Byte) : (s.setST v).I = s.I := rfl
@[simp] theorem setST_stack (v : Byte) : (s.setST v).stack = s.stack := rfl
@[simp] theorem setST_sp (v : Byte) : (s.setST v).sp = s.sp := rfl
@[simp] theorem setST_opcode (v : Byte) : (s.setST v).opcode = s.opcode := rfl
@[simp] theorem setST_DT (v : Byte) : (s.setST v).DT = s.DT := rfl
@[simp] theorem setST_ST (v : Byte) : (s.setST v).ST = v := rfl
@[simp] theorem setST_screen (v : Byte) : (s.setST v).screen = s.screen := rfl
@[simp] theorem setST_ram (v : Byte) : (s.setST v).ram = s.ram := rfl
@[simp] theorem setST_runState (v : Byte) : (s.setST v).runState = s.runState := rfl
@[simp] theorem setST_fault (v : Byte) : (s.setST v).fault = s.fault := rfl
@[simp] theorem setST_keys (v : Byte) : (s.setST v).keys = s.keys := rfl
@[simp] theorem setST_keyEvent (v : Byte) : (s.setST v).keyEvent = s.keyEvent := rfl
@[simp] theorem setST_rnd (v : Byte) : (s.setST v).rnd = s.rnd := rfl
@[simp] theorem setST_turn (v : Byte) : (s.setST v).turn = s.turn := rfl
@[simp] theorem setST_result (v : Byte) : (s.setST v).result = s.result := rfl

/-! ### setScreen -/

@[simp] theorem setScreen_V (v : Screen) : (s.setScreen v).V = s.V := rfl
@[simp] theorem setScreen_pc (v : Screen) : (s.setScreen v).pc = s.pc := rfl
@[simp] theorem setScreen_I (v : Screen) : (s.setScreen v).I = s.I := rfl
@[simp] theorem setScreen_stack (v : Screen) : (s.setScreen v).stack = s.stack := rfl
@[simp] theorem setScreen_sp (v : Screen) : (s.setScreen v).sp = s.sp := rfl
@[simp] theorem setScreen_opcode (v : Screen) : (s.setScreen v).opcode = s.opcode := rfl
@[simp] theorem setScreen_DT (v : Screen) : (s.setScreen v).DT = s.DT := rfl
@[simp] theorem setScreen_ST (v : Screen) : (s.setScreen v).ST = s.ST := rfl
@[simp] theorem setScreen_screen (v : Screen) : (s.setScreen v).screen = v := rfl
@[simp] theorem setScreen_ram (v : Screen) : (s.setScreen v).ram = s.ram := rfl
@[simp] theorem setScreen_runState (v : Screen) : (s.setScreen v).runState = s.runState := rfl
@[simp] theorem setScreen_fault (v : Screen) : (s.setScreen v).fault = s.fault := rfl
@[simp] theorem setScreen_keys (v : Screen) : (s.setScreen v).keys = s.keys := rfl
@[simp] theorem setScreen_keyEvent (v : Screen) : (s.setScreen v).keyEvent = s.keyEvent := rfl
@[simp] theorem setScreen_rnd (v : Screen) : (s.setScreen v).rnd = s.rnd := rfl
@[simp] theorem setScreen_turn (v : Screen) : (s.setScreen v).turn = s.turn := rfl
@[simp] theorem setScreen_result (v : Screen) : (s.setScreen v).result = s.result := rfl

/-! ### setRunState -/

@[simp] theorem setRunState_V (v : RunState) : (s.setRunState v).V = s.V := rfl
@[simp] theorem setRunState_pc (v : RunState) : (s.setRunState v).pc = s.pc := rfl
@[simp] theorem setRunState_I (v : RunState) : (s.setRunState v).I = s.I := rfl
@[simp] theorem setRunState_stack (v : RunState) : (s.setRunState v).stack = s.stack := rfl
@[simp] theorem setRunState_sp (v : RunState) : (s.setRunState v).sp = s.sp := rfl
@[simp] theorem setRunState_opcode (v : RunState) : (s.setRunState v).opcode = s.opcode := rfl
@[simp] theorem setRunState_DT (v : RunState) : (s.setRunState v).DT = s.DT := rfl
@[simp] theorem setRunState_ST (v : RunState) : (s.setRunState v).ST = s.ST := rfl
@[simp] theorem setRunState_screen (v : RunState) : (s.setRunState v).screen = s.screen := rfl
@[simp] theorem setRunState_ram (v : RunState) : (s.setRunState v).ram = s.ram := rfl
@[simp] theorem setRunState_runState (v : RunState) : (s.setRunState v).runState = v := rfl
@[simp] theorem setRunState_fault (v : RunState) : (s.setRunState v).fault = s.fault := rfl
@[simp] theorem setRunState_keys (v : RunState) : (s.setRunState v).keys = s.keys := rfl
@[simp] theorem setRunState_keyEvent (v : RunState) : (s.setRunState v).keyEvent = s.keyEvent := rfl
@[simp] theorem setRunState_rnd (v : RunState) : (s.setRunState v).rnd = s.rnd := rfl
@[simp] theorem setRunState_turn (v : RunState) : (s.setRunState v).turn = s.turn := rfl
@[simp] theorem setRunState_result (v : RunState) : (s.setRunState v).result = s.result := rfl

/-! ### push -/

@[simp] theorem push_V (v : Word) (h : s.sp.val < 16) : (s.push v h).V = s.V := rfl
@[simp] theorem push_pc (v : Word) (h : s.sp.val < 16) : (s.push v h).pc = s.pc := rfl
@[simp] theorem push_I (v : Word) (h : s.sp.val < 16) : (s.push v h).I = s.I := rfl
@[simp] theorem push_stack (v : Word) (h : s.sp.val < 16) : (s.push v h).stack = s.stack.set s.sp.val v h := rfl
@[simp] theorem push_sp (v : Word) (h : s.sp.val < 16) : (s.push v h).sp = ⟨s.sp.val + 1, by omega⟩ := rfl
@[simp] theorem push_opcode (v : Word) (h : s.sp.val < 16) : (s.push v h).opcode = s.opcode := rfl
@[simp] theorem push_DT (v : Word) (h : s.sp.val < 16) : (s.push v h).DT = s.DT := rfl
@[simp] theorem push_ST (v : Word) (h : s.sp.val < 16) : (s.push v h).ST = s.ST := rfl
@[simp] theorem push_screen (v : Word) (h : s.sp.val < 16) : (s.push v h).screen = s.screen := rfl
@[simp] theorem push_ram (v : Word) (h : s.sp.val < 16) : (s.push v h).ram = s.ram := rfl
@[simp] theorem push_runState (v : Word) (h : s.sp.val < 16) : (s.push v h).runState = s.runState := rfl
@[simp] theorem push_fault (v : Word) (h : s.sp.val < 16) : (s.push v h).fault = s.fault := rfl
@[simp] theorem push_keys (v : Word) (h : s.sp.val < 16) : (s.push v h).keys = s.keys := rfl
@[simp] theorem push_keyEvent (v : Word) (h : s.sp.val < 16) : (s.push v h).keyEvent = s.keyEvent := rfl
@[simp] theorem push_rnd (v : Word) (h : s.sp.val < 16) : (s.push v h).rnd = s.rnd := rfl
@[simp] theorem push_turn (v : Word) (h : s.sp.val < 16) : (s.push v h).turn = s.turn := rfl
@[simp] theorem push_result (v : Word) (h : s.sp.val < 16) : (s.push v h).result = s.result := rfl

/-! ### pop -/

@[simp] theorem pop_V (h : 0 < s.sp.val) : (s.pop h).V = s.V := rfl
@[simp] theorem pop_pc (h : 0 < s.sp.val) : (s.pop h).pc = s.pc := rfl
@[simp] theorem pop_I (h : 0 < s.sp.val) : (s.pop h).I = s.I := rfl
@[simp] theorem pop_stack (h : 0 < s.sp.val) : (s.pop h).stack = s.stack := rfl
@[simp] theorem pop_sp (h : 0 < s.sp.val) : (s.pop h).sp = ⟨s.sp.val - 1, by omega⟩ := rfl
@[simp] theorem pop_opcode (h : 0 < s.sp.val) : (s.pop h).opcode = s.opcode := rfl
@[simp] theorem pop_DT (h : 0 < s.sp.val) : (s.pop h).DT = s.DT := rfl
@[simp] theorem pop_ST (h : 0 < s.sp.val) : (s.pop h).ST = s.ST := rfl
@[simp] theorem pop_screen (h : 0 < s.sp.val) : (s.pop h).screen = s.screen := rfl
@[simp] theorem pop_ram (h : 0 < s.sp.val) : (s.pop h).ram = s.ram := rfl
@[simp] theorem pop_runState (h : 0 < s.sp.val) : (s.pop h).runState = s.runState := rfl
@[simp] theorem pop_fault (h : 0 < s.sp.val) : (s.pop h).fault = s.fault := rfl
@[simp] theorem pop_keys (h : 0 < s.sp.val) : (s.pop h).keys = s.keys := rfl
@[simp] theorem pop_keyEvent (h : 0 < s.sp.val) : (s.pop h).keyEvent = s.keyEvent := rfl
@[simp] theorem pop_rnd (h : 0 < s.sp.val) : (s.pop h).rnd = s.rnd := rfl
@[simp] theorem pop_turn (h : 0 < s.sp.val) : (s.pop h).turn = s.turn := rfl
@[simp] theorem pop_result (h : 0 < s.sp.val) : (s.pop h).result = s.result := rfl

/-! ### writeByte -/

@[simp] theorem writeByte_V (a : Addr) (v : Byte) : (s.writeByte a v).V = s.V := rfl
@[simp] theorem writeByte_pc (a : Addr) (v : Byte) : (s.writeByte a v).pc = s.pc := rfl
@[simp] theorem writeByte_I (a : Addr) (v : Byte) : (s.writeByte a v).I = s.I := rfl
@[simp] theorem writeByte_stack (a : Addr) (v : Byte) : (s.writeByte a v).stack = s.stack := rfl
@[simp] theorem writeByte_sp (a : Addr) (v : Byte) : (s.writeByte a v).sp = s.sp := rfl
@[simp] theorem writeByte_opcode (a : Addr) (v : Byte) : (s.writeByte a v).opcode = s.opcode := rfl
@[simp] theorem writeByte_DT (a : Addr) (v : Byte) : (s.writeByte a v).DT = s.DT := rfl
@[simp] theorem writeByte_ST (a : Addr) (v : Byte) : (s.writeByte a v).ST = s.ST := rfl
@[simp] theorem writeByte_screen (a : Addr) (v : Byte) : (s.writeByte a v).screen = s.screen := rfl
@[simp] theorem writeByte_ram (a : Addr) (v : Byte) : (s.writeByte a v).ram = s.ram.write a.toNat v := rfl
@[simp] theorem writeByte_runState (a : Addr) (v : Byte) : (s.writeByte a v).runState = s.runState := rfl
@[simp] theorem writeByte_fault (a : Addr) (v : Byte) : (s.writeByte a v).fault = s.fault := rfl
@[simp] theorem writeByte_keys (a : Addr) (v : Byte) : (s.writeByte a v).keys = s.keys := rfl
@[simp] theorem writeByte_keyEvent (a : Addr) (v : Byte) : (s.writeByte a v).keyEvent = s.keyEvent := rfl
@[simp] theorem writeByte_rnd (a : Addr) (v : Byte) : (s.writeByte a v).rnd = s.rnd := rfl
@[simp] theorem writeByte_turn (a : Addr) (v : Byte) : (s.writeByte a v).turn = s.turn := rfl
@[simp] theorem writeByte_result (a : Addr) (v : Byte) : (s.writeByte a v).result = s.result := rfl

/-! ### complete -/

@[simp] theorem complete_V (o : StepOutcome) (d : Bool) : (s.complete o d).V = s.V := rfl
@[simp] theorem complete_pc (o : StepOutcome) (d : Bool) : (s.complete o d).pc = o.nextPc s.pc := rfl
@[simp] theorem complete_I (o : StepOutcome) (d : Bool) : (s.complete o d).I = s.I := rfl
@[simp] theorem complete_stack (o : StepOutcome) (d : Bool) : (s.complete o d).stack = s.stack := rfl
@[simp] theorem complete_sp (o : StepOutcome) (d : Bool) : (s.complete o d).sp = s.sp := rfl
@[simp] theorem complete_opcode (o : StepOutcome) (d : Bool) : (s.complete o d).opcode = s.opcode := rfl
@[simp] theorem complete_DT (o : StepOutcome) (d : Bool) : (s.complete o d).DT = s.DT := rfl
@[simp] theorem complete_ST (o : StepOutcome) (d : Bool) : (s.complete o d).ST = s.ST := rfl
@[simp] theorem complete_screen (o : StepOutcome) (d : Bool) : (s.complete o d).screen = s.screen := rfl
@[simp] theorem complete_ram (o : StepOutcome) (d : Bool) : (s.complete o d).ram = s.ram := rfl
@[simp] theorem complete_runState (o : StepOutcome) (d : Bool) : (s.complete o d).runState = s.runState := rfl
@[simp] theorem complete_fault (o : StepOutcome) (d : Bool) : (s.complete o d).fault = s.fault := rfl
@[simp] theorem complete_keys (o : StepOutcome) (d : Bool) : (s.complete o d).keys = s.keys := rfl
@[simp] theorem complete_keyEvent (o : StepOutcome) (d : Bool) : (s.complete o d).keyEvent = s.keyEvent := rfl
@[simp] theorem complete_rnd (o : StepOutcome) (d : Bool) : (s.complete o d).rnd = s.rnd := rfl
@[simp] theorem complete_turn (o : StepOutcome) (d : Bool) : (s.complete o d).turn = s.turn := rfl
@[simp] theorem complete_result (o : StepOutcome) (d : Bool) : (s.complete o d).result = some (.ok o d) := rfl

/-! ### setFlag -/

@[simp] theorem setFlag_V (b : Bool) : (s.setFlag b).V = s.V.set regF.toNat (flagByte b) (regId_lt regF) := rfl
@[simp] theorem setFlag_pc (b : Bool) : (s.setFlag b).pc = s.pc := rfl
@[simp] theorem setFlag_I (b : Bool) : (s.setFlag b).I = s.I := rfl
@[simp] theorem setFlag_stack (b : Bool) : (s.setFlag b).stack = s.stack := rfl
@[simp] theorem setFlag_sp (b : Bool) : (s.setFlag b).sp = s.sp := rfl
@[simp] theorem setFlag_opcode (b : Bool) : (s.setFlag b).opcode = s.opcode := rfl
@[simp] theorem setFlag_DT (b : Bool) : (s.setFlag b).DT = s.DT := rfl
@[simp] theorem setFlag_ST (b : Bool) : (s.setFlag b).ST = s.ST := rfl
@[simp] theorem setFlag_screen (b : Bool) : (s.setFlag b).screen = s.screen := rfl
@[simp] theorem setFlag_ram (b : Bool) : (s.setFlag b).ram = s.ram := rfl
@[simp] theorem setFlag_runState (b : Bool) : (s.setFlag b).runState = s.runState := rfl
@[simp] theorem setFlag_fault (b : Bool) : (s.setFlag b).fault = s.fault := rfl
@[simp] theorem setFlag_keys (b : Bool) : (s.setFlag b).keys = s.keys := rfl
@[simp] theorem setFlag_keyEvent (b : Bool) : (s.setFlag b).keyEvent = s.keyEvent := rfl
@[simp] theorem setFlag_rnd (b : Bool) : (s.setFlag b).rnd = s.rnd := rfl
@[simp] theorem setFlag_turn (b : Bool) : (s.setFlag b).turn = s.turn := rfl
@[simp] theorem setFlag_result (b : Bool) : (s.setFlag b).result = s.result := rfl

/-! ### halt -/

@[simp] theorem halt_V (f : FaultCode) : (s.halt f).V = s.V := rfl
@[simp] theorem halt_pc (f : FaultCode) : (s.halt f).pc = s.pc := rfl
@[simp] theorem halt_I (f : FaultCode) : (s.halt f).I = s.I := rfl
@[simp] theorem halt_stack (f : FaultCode) : (s.halt f).stack = s.stack := rfl
@[simp] theorem halt_sp (f : FaultCode) : (s.halt f).sp = s.sp := rfl
@[simp] theorem halt_opcode (f : FaultCode) : (s.halt f).opcode = s.opcode := rfl
@[simp] theorem halt_DT (f : FaultCode) : (s.halt f).DT = s.DT := rfl
@[simp] theorem halt_ST (f : FaultCode) : (s.halt f).ST = s.ST := rfl
@[simp] theorem halt_screen (f : FaultCode) : (s.halt f).screen = s.screen := rfl
@[simp] theorem halt_ram (f : FaultCode) : (s.halt f).ram = s.ram := rfl
@[simp] theorem halt_runState (f : FaultCode) : (s.halt f).runState = .halted := rfl
@[simp] theorem halt_fault (f : FaultCode) : (s.halt f).fault = f := rfl
@[simp] theorem halt_keys (f : FaultCode) : (s.halt f).keys = s.keys := rfl
@[simp] theorem halt_keyEvent (f : FaultCode) : (s.halt f).keyEvent = s.keyEvent := rfl
@[simp] theorem halt_rnd (f : FaultCode) : (s.halt f).rnd = s.rnd := rfl
@[simp] theorem halt_turn (f : FaultCode) : (s.halt f).turn = s.turn := rfl
@[simp] theorem halt_result (f : FaultCode) : (s.halt f).result = s.result := rfl

/-! ### raise -/

@[simp] theorem raise_V (f : FaultCode) : (s.raise f).V = s.V := rfl
@[simp] theorem raise_pc (f : FaultCode) : (s.raise f).pc = s.pc := rfl
@[simp] theorem raise_I (f : FaultCode) : (s.raise f).I = s.I := rfl
@[simp] theorem raise_stack (f : FaultCode) : (s.raise f).stack = s.stack := rfl
@[simp] theorem raise_sp (f : FaultCode) : (s.raise f).sp = s.sp := rfl
@[simp] theorem raise_opcode (f : FaultCode) : (s.raise f).opcode = s.opcode := rfl
@[simp] theorem raise_DT (f : FaultCode) : (s.raise f).DT = s.DT := rfl
@[simp] theorem raise_ST (f : FaultCode) : (s.raise f).ST = s.ST := rfl
@[simp] theorem raise_screen (f : FaultCode) : (s.raise f).screen = s.screen := rfl
@[simp] theorem raise_ram (f : FaultCode) : (s.raise f).ram = s.ram := rfl
@[simp] theorem raise_runState (f : FaultCode) : (s.raise f).runState = .halted := rfl
@[simp] theorem raise_fault (f : FaultCode) : (s.raise f).fault = f := rfl
@[simp] theorem raise_keys (f : FaultCode) : (s.raise f).keys = s.keys := rfl
@[simp] theorem raise_keyEvent (f : FaultCode) : (s.raise f).keyEvent = s.keyEvent := rfl
@[simp] theorem raise_rnd (f : FaultCode) : (s.raise f).rnd = s.rnd := rfl
@[simp] theorem raise_turn (f : FaultCode) : (s.raise f).turn = s.turn := rfl
@[simp] theorem raise_result (f : FaultCode) : (s.raise f).result = some (.err f (some s.pc.toNat)) := rfl

/-! ### refuseStep -/

@[simp] theorem refuseStep_V : s.refuseStep.V = s.V := rfl
@[simp] theorem refuseStep_pc : s.refuseStep.pc = s.pc := rfl
@[simp] theorem refuseStep_I : s.refuseStep.I = s.I := rfl
@[simp] theorem refuseStep_stack : s.refuseStep.stack = s.stack := rfl
@[simp] theorem refuseStep_sp : s.refuseStep.sp = s.sp := rfl
@[simp] theorem refuseStep_opcode : s.refuseStep.opcode = s.opcode := rfl
@[simp] theorem refuseStep_DT : s.refuseStep.DT = s.DT := rfl
@[simp] theorem refuseStep_ST : s.refuseStep.ST = s.ST := rfl
@[simp] theorem refuseStep_screen : s.refuseStep.screen = s.screen := rfl
@[simp] theorem refuseStep_ram : s.refuseStep.ram = s.ram := rfl
@[simp] theorem refuseStep_runState : s.refuseStep.runState = s.runState := rfl
@[simp] theorem refuseStep_fault : s.refuseStep.fault = s.fault := rfl
@[simp] theorem refuseStep_keys : s.refuseStep.keys = s.keys := rfl
@[simp] theorem refuseStep_keyEvent : s.refuseStep.keyEvent = s.keyEvent := rfl
@[simp] theorem refuseStep_rnd : s.refuseStep.rnd = s.rnd := rfl
@[simp] theorem refuseStep_turn : s.refuseStep.turn = s.turn := rfl
@[simp] theorem refuseStep_result : s.refuseStep.result = some (.err s.fault Option.none) := rfl

/-! ### latchOpcode -/

@[simp] theorem latchOpcode_V : s.latchOpcode.V = s.V := rfl
@[simp] theorem latchOpcode_pc : s.latchOpcode.pc = s.pc := rfl
@[simp] theorem latchOpcode_I : s.latchOpcode.I = s.I := rfl
@[simp] theorem latchOpcode_stack : s.latchOpcode.stack = s.stack := rfl
@[simp] theorem latchOpcode_sp : s.latchOpcode.sp = s.sp := rfl
@[simp] theorem latchOpcode_opcode : s.latchOpcode.opcode = s.fetchWord := rfl
@[simp] theorem latchOpcode_DT : s.latchOpcode.DT = s.DT := rfl
@[simp] theorem latchOpcode_ST : s.latchOpcode.ST = s.ST := rfl
@[simp] theorem latchOpcode_screen : s.latchOpcode.screen = s.screen := rfl
@[simp] theorem latchOpcode_ram : s.latchOpcode.ram = s.ram := rfl
@[simp] theorem latchOpcode_runState : s.latchOpcode.runState = s.runState := rfl
@[simp] theorem latchOpcode_fault : s.latchOpcode.fault = s.fault := rfl
@[simp] theorem latchOpcode_keys : s.latchOpcode.keys = s.keys := rfl
@[simp] theorem latchOpcode_keyEvent : s.latchOpcode.keyEvent = s.keyEvent := rfl
@[simp] theorem latchOpcode_rnd : s.latchOpcode.rnd = s.rnd := rfl
@[simp] theorem latchOpcode_turn : s.latchOpcode.turn = s.turn := rfl
@[simp] theorem latchOpcode_result : s.latchOpcode.result = s.result := rfl

/-! ### present -/

@[simp] theorem present_V (inp : StepInputs) : (s.present inp).V = s.V := rfl
@[simp] theorem present_pc (inp : StepInputs) : (s.present inp).pc = s.pc := rfl
@[simp] theorem present_I (inp : StepInputs) : (s.present inp).I = s.I := rfl
@[simp] theorem present_stack (inp : StepInputs) : (s.present inp).stack = s.stack := rfl
@[simp] theorem present_sp (inp : StepInputs) : (s.present inp).sp = s.sp := rfl
@[simp] theorem present_opcode (inp : StepInputs) : (s.present inp).opcode = s.opcode := rfl
@[simp] theorem present_DT (inp : StepInputs) : (s.present inp).DT = s.DT := rfl
@[simp] theorem present_ST (inp : StepInputs) : (s.present inp).ST = s.ST := rfl
@[simp] theorem present_screen (inp : StepInputs) : (s.present inp).screen = s.screen := rfl
@[simp] theorem present_ram (inp : StepInputs) : (s.present inp).ram = s.ram := rfl
@[simp] theorem present_runState (inp : StepInputs) : (s.present inp).runState = s.runState := rfl
@[simp] theorem present_fault (inp : StepInputs) : (s.present inp).fault = s.fault := rfl
@[simp] theorem present_keys (inp : StepInputs) : (s.present inp).keys = inp.keys := rfl
@[simp] theorem present_keyEvent (inp : StepInputs) : (s.present inp).keyEvent = inp.keyEvent := rfl
@[simp] theorem present_rnd (inp : StepInputs) : (s.present inp).rnd = inp.rnd := rfl
@[simp] theorem present_turn (inp : StepInputs) : (s.present inp).turn = s.turn := rfl
@[simp] theorem present_result (inp : StepInputs) : (s.present inp).result = s.result := rfl

/-! ### tickMany -/

@[simp] theorem tickMany_V (n : Nat) : (s.tickMany n).V = s.V := rfl
@[simp] theorem tickMany_pc (n : Nat) : (s.tickMany n).pc = s.pc := rfl
@[simp] theorem tickMany_I (n : Nat) : (s.tickMany n).I = s.I := rfl
@[simp] theorem tickMany_stack (n : Nat) : (s.tickMany n).stack = s.stack := rfl
@[simp] theorem tickMany_sp (n : Nat) : (s.tickMany n).sp = s.sp := rfl
@[simp] theorem tickMany_opcode (n : Nat) : (s.tickMany n).opcode = s.opcode := rfl
@[simp] theorem tickMany_DT (n : Nat) : (s.tickMany n).DT = if s.runState = .halted then s.DT else countDown s.DT n := rfl
@[simp] theorem tickMany_ST (n : Nat) : (s.tickMany n).ST = if s.runState = .halted then s.ST else countDown s.ST n := rfl
@[simp] theorem tickMany_screen (n : Nat) : (s.tickMany n).screen = s.screen := rfl
@[simp] theorem tickMany_ram (n : Nat) : (s.tickMany n).ram = s.ram := rfl
@[simp] theorem tickMany_runState (n : Nat) : (s.tickMany n).runState = s.runState := rfl
@[simp] theorem tickMany_fault (n : Nat) : (s.tickMany n).fault = s.fault := rfl
@[simp] theorem tickMany_keys (n : Nat) : (s.tickMany n).keys = s.keys := rfl
@[simp] theorem tickMany_keyEvent (n : Nat) : (s.tickMany n).keyEvent = s.keyEvent := rfl
@[simp] theorem tickMany_rnd (n : Nat) : (s.tickMany n).rnd = s.rnd := rfl
@[simp] theorem tickMany_turn (n : Nat) : (s.tickMany n).turn = s.turn := rfl
@[simp] theorem tickMany_result (n : Nat) : (s.tickMany n).result = s.result := rfl

/-! ### hostTurn -/

@[simp] theorem hostTurn_V : s.hostTurn.V = s.V := rfl
@[simp] theorem hostTurn_pc : s.hostTurn.pc = s.pc := rfl
@[simp] theorem hostTurn_I : s.hostTurn.I = s.I := rfl
@[simp] theorem hostTurn_stack : s.hostTurn.stack = s.stack := rfl
@[simp] theorem hostTurn_sp : s.hostTurn.sp = s.sp := rfl
@[simp] theorem hostTurn_opcode : s.hostTurn.opcode = s.opcode := rfl
@[simp] theorem hostTurn_DT : s.hostTurn.DT = if s.runState = .halted then s.DT else countDown s.DT (Config.ticks s.turn) := rfl
@[simp] theorem hostTurn_ST : s.hostTurn.ST = if s.runState = .halted then s.ST else countDown s.ST (Config.ticks s.turn) := rfl
@[simp] theorem hostTurn_screen : s.hostTurn.screen = s.screen := rfl
@[simp] theorem hostTurn_ram : s.hostTurn.ram = s.ram := rfl
@[simp] theorem hostTurn_runState : s.hostTurn.runState = s.runState := rfl
@[simp] theorem hostTurn_fault : s.hostTurn.fault = s.fault := rfl
@[simp] theorem hostTurn_keys : s.hostTurn.keys = Config.keys s.turn := rfl
@[simp] theorem hostTurn_keyEvent : s.hostTurn.keyEvent = Config.keyEvent s.turn := rfl
@[simp] theorem hostTurn_rnd : s.hostTurn.rnd = Config.rnd s.turn := rfl
@[simp] theorem hostTurn_turn : s.hostTurn.turn = s.turn + 1 := rfl
@[simp] theorem hostTurn_result : s.hostTurn.result = s.result := rfl

/-! ### The accessors after an update that does not touch what they read -/

@[simp] theorem readByte_setReg (x : RegId) (v : Byte) (c : Addr) : (s.setReg x v).readByte c = s.readByte c := rfl
@[simp] theorem ea_setReg (x : RegId) (v : Byte) (k : Nat) : (s.setReg x v).ea k = s.ea k := rfl
@[simp] theorem reg_setPc (v : Word) (r : RegId) : (s.setPc v).reg r = s.reg r := rfl
@[simp] theorem readByte_setPc (v : Word) (c : Addr) : (s.setPc v).readByte c = s.readByte c := rfl
@[simp] theorem ea_setPc (v : Word) (k : Nat) : (s.setPc v).ea k = s.ea k := rfl
@[simp] theorem reg_setI (v : Word) (r : RegId) : (s.setI v).reg r = s.reg r := rfl
@[simp] theorem readByte_setI (v : Word) (c : Addr) : (s.setI v).readByte c = s.readByte c := rfl
@[simp] theorem reg_setDT (v : Byte) (r : RegId) : (s.setDT v).reg r = s.reg r := rfl
@[simp] theorem readByte_setDT (v : Byte) (c : Addr) : (s.setDT v).readByte c = s.readByte c := rfl
@[simp] theorem ea_setDT (v : Byte) (k : Nat) : (s.setDT v).ea k = s.ea k := rfl
@[simp] theorem reg_setST (v : Byte) (r : RegId) : (s.setST v).reg r = s.reg r := rfl
@[simp] theorem readByte_setST (v : Byte) (c : Addr) : (s.setST v).readByte c = s.readByte c := rfl
@[simp] theorem ea_setST (v : Byte) (k : Nat) : (s.setST v).ea k = s.ea k := rfl
@[simp] theorem reg_setScreen (v : Screen) (r : RegId) : (s.setScreen v).reg r = s.reg r := rfl
@[simp] theorem readByte_setScreen (v : Screen) (c : Addr) : (s.setScreen v).readByte c = s.readByte c := rfl
@[simp] theorem ea_setScreen (v : Screen) (k : Nat) : (s.setScreen v).ea k = s.ea k := rfl
@[simp] theorem reg_setRunState (v : RunState) (r : RegId) : (s.setRunState v).reg r = s.reg r := rfl
@[simp] theorem readByte_setRunState (v : RunState) (c : Addr) : (s.setRunState v).readByte c = s.readByte c := rfl
@[simp] theorem ea_setRunState (v : RunState) (k : Nat) : (s.setRunState v).ea k = s.ea k := rfl
@[simp] theorem reg_push (v : Word) (h : s.sp.val < 16) (r : RegId) : (s.push v h).reg r = s.reg r := rfl
@[simp] theorem readByte_push (v : Word) (h : s.sp.val < 16) (c : Addr) : (s.push v h).readByte c = s.readByte c := rfl
@[simp] theorem ea_push (v : Word) (h : s.sp.val < 16) (k : Nat) : (s.push v h).ea k = s.ea k := rfl
@[simp] theorem reg_pop (h : 0 < s.sp.val) (r : RegId) : (s.pop h).reg r = s.reg r := rfl
@[simp] theorem readByte_pop (h : 0 < s.sp.val) (c : Addr) : (s.pop h).readByte c = s.readByte c := rfl
@[simp] theorem ea_pop (h : 0 < s.sp.val) (k : Nat) : (s.pop h).ea k = s.ea k := rfl
@[simp] theorem reg_writeByte (a : Addr) (v : Byte) (r : RegId) : (s.writeByte a v).reg r = s.reg r := rfl
@[simp] theorem ea_writeByte (a : Addr) (v : Byte) (k : Nat) : (s.writeByte a v).ea k = s.ea k := rfl
@[simp] theorem reg_complete (o : StepOutcome) (d : Bool) (r : RegId) : (s.complete o d).reg r = s.reg r := rfl
@[simp] theorem readByte_complete (o : StepOutcome) (d : Bool) (c : Addr) : (s.complete o d).readByte c = s.readByte c := rfl
@[simp] theorem ea_complete (o : StepOutcome) (d : Bool) (k : Nat) : (s.complete o d).ea k = s.ea k := rfl
@[simp] theorem readByte_setFlag (b : Bool) (c : Addr) : (s.setFlag b).readByte c = s.readByte c := rfl
@[simp] theorem ea_setFlag (b : Bool) (k : Nat) : (s.setFlag b).ea k = s.ea k := rfl
@[simp] theorem reg_halt (f : FaultCode) (r : RegId) : (s.halt f).reg r = s.reg r := rfl
@[simp] theorem readByte_halt (f : FaultCode) (c : Addr) : (s.halt f).readByte c = s.readByte c := rfl
@[simp] theorem ea_halt (f : FaultCode) (k : Nat) : (s.halt f).ea k = s.ea k := rfl
@[simp] theorem reg_raise (f : FaultCode) (r : RegId) : (s.raise f).reg r = s.reg r := rfl
@[simp] theorem readByte_raise (f : FaultCode) (c : Addr) : (s.raise f).readByte c = s.readByte c := rfl
@[simp] theorem ea_raise (f : FaultCode) (k : Nat) : (s.raise f).ea k = s.ea k := rfl
@[simp] theorem reg_refuseStep (r : RegId) : s.refuseStep.reg r = s.reg r := rfl
@[simp] theorem readByte_refuseStep (c : Addr) : s.refuseStep.readByte c = s.readByte c := rfl
@[simp] theorem ea_refuseStep (k : Nat) : s.refuseStep.ea k = s.ea k := rfl
@[simp] theorem reg_latchOpcode (r : RegId) : s.latchOpcode.reg r = s.reg r := rfl
@[simp] theorem readByte_latchOpcode (c : Addr) : s.latchOpcode.readByte c = s.readByte c := rfl
@[simp] theorem ea_latchOpcode (k : Nat) : s.latchOpcode.ea k = s.ea k := rfl
@[simp] theorem reg_present (inp : StepInputs) (r : RegId) : (s.present inp).reg r = s.reg r := rfl
@[simp] theorem readByte_present (inp : StepInputs) (c : Addr) : (s.present inp).readByte c = s.readByte c := rfl
@[simp] theorem ea_present (inp : StepInputs) (k : Nat) : (s.present inp).ea k = s.ea k := rfl
@[simp] theorem reg_tickMany (n : Nat) (r : RegId) : (s.tickMany n).reg r = s.reg r := rfl
@[simp] theorem readByte_tickMany (n : Nat) (c : Addr) : (s.tickMany n).readByte c = s.readByte c := rfl
@[simp] theorem ea_tickMany (n : Nat) (k : Nat) : (s.tickMany n).ea k = s.ea k := rfl
@[simp] theorem reg_hostTurn (r : RegId) : s.hostTurn.reg r = s.reg r := rfl
@[simp] theorem readByte_hostTurn (c : Addr) : s.hostTurn.readByte c = s.readByte c := rfl
@[simp] theorem ea_hostTurn (k : Nat) : s.hostTurn.ea k = s.ea k := rfl

end Sys2Proof.Machine
end

