-- ==== Sys2Proof/Laws/Memory.lean ====
section
/-! SUPPORT. The laws of memory: what a read sees after a write, and that every memory operation keeps the canonical form
(`Memory.wf`). -/

namespace Sys2Proof.Machine

/-- A write leaves every other address as it was, in any memory. -/
theorem Memory.read_write_ne (m : Memory) (a b : Nat) (v : Byte) (h : b ≠ a) : (m.write a v).read b = m.read b := by
  induction m with
  | nil =>
    unfold Memory.write
    split <;> simp [Memory.read, h]
  | cons c m ih =>
    obtain ⟨k, w⟩ := c
    unfold Memory.write
    split
    · split <;> simp [Memory.read, h]
    · split
      · subst_vars
        split <;> simp [Memory.read, h]
      · simp [Memory.read, ih]

/-- Below the least listed address, memory reads as unlisted. -/
theorem Memory.read_of_wfFrom (m : Memory) (lo a : Nat) (h : Memory.wfFrom lo m = true) (ha : a < lo) :
    m.read a = Memory.unlisted a := by
  induction m generalizing lo with
  | nil => rfl
  | cons c m ih =>
    obtain ⟨k, w⟩ := c
    simp only [Memory.wfFrom, Bool.and_eq_true, decide_eq_true_eq] at h
    have hk : a ≠ k := by omega
    simp only [Memory.read, if_neg hk]
    exact ih (k + 1) h.2 (by omega)

/-- In a memory in canonical form, a read sees the value just written. -/
theorem Memory.read_write_self_from (m : Memory) (lo a : Nat) (v : Byte) (h : Memory.wfFrom lo m = true) :
    (m.write a v).read a = v := by
  induction m generalizing lo with
  | nil =>
    unfold Memory.write
    split
    · simp [Memory.read, *]
    · simp [Memory.read]
  | cons c m ih =>
    obtain ⟨k, w⟩ := c
    have h' := h
    simp only [Memory.wfFrom, Bool.and_eq_true, decide_eq_true_eq] at h
    unfold Memory.write
    split
    · split
      · have hk : a ≠ k := by omega
        simp only [Memory.read, if_neg hk]
        rw [Memory.read_of_wfFrom m (k + 1) a h.2 (by omega)]
        exact Eq.symm (by assumption)
      · simp [Memory.read]
    · split
      · subst_vars
        split
        · rw [Memory.read_of_wfFrom m (k + 1) k h.2 (by omega)]
          exact Eq.symm (by assumption)
        · simp [Memory.read]
      · have hk : a ≠ k := by assumption
        simp only [Memory.read, if_neg hk]
        exact ih (k + 1) h.2

theorem Memory.read_write_self (m : Memory) (a : Nat) (v : Byte) (h : m.wf = true) : (m.write a v).read a = v :=
  Memory.read_write_self_from m 0 a v h

/-- The form holds from any lower bound. -/
theorem Memory.wfFrom_mono (m : Memory) (hi lo : Nat) (h : Memory.wfFrom hi m = true) (hle : lo ≤ hi) :
    Memory.wfFrom lo m = true := by
  cases m with
  | nil => rfl
  | cons c m =>
    obtain ⟨k, w⟩ := c
    simp only [Memory.wfFrom, Bool.and_eq_true, decide_eq_true_eq, bne_iff_ne] at h ⊢
    exact ⟨⟨⟨by omega, h.1.1.2⟩, h.1.2⟩, h.2⟩

/-- A write keeps the canonical form. -/
theorem Memory.wfFrom_write (m : Memory) (lo a : Nat) (v : Byte) (h : Memory.wfFrom lo m = true) (hlo : lo ≤ a)
    (ha : a < 4096) : Memory.wfFrom lo (m.write a v) = true := by
  induction m generalizing lo with
  | nil =>
    unfold Memory.write
    split
    · rfl
    · simp [Memory.wfFrom, *]
  | cons c m ih =>
    obtain ⟨k, w⟩ := c
    have h' := h
    simp only [Memory.wfFrom, Bool.and_eq_true, decide_eq_true_eq, bne_iff_ne] at h
    obtain ⟨⟨⟨h1, h2⟩, h3⟩, h4⟩ := h
    unfold Memory.write
    split
    · split
      · exact h'
      · simp only [Memory.wfFrom, Bool.and_eq_true, decide_eq_true_eq, bne_iff_ne]
        exact ⟨⟨⟨hlo, ha⟩, by assumption⟩, ⟨⟨⟨by omega, h2⟩, h3⟩, h4⟩⟩
    · split
      · subst_vars
        split
        · exact Memory.wfFrom_mono m _ _ h4 (by omega)
        · simp only [Memory.wfFrom, Bool.and_eq_true, decide_eq_true_eq, bne_iff_ne]
          exact ⟨⟨⟨h1, h2⟩, by assumption⟩, h4⟩
      · simp only [Memory.wfFrom, Bool.and_eq_true, decide_eq_true_eq, bne_iff_ne]
        exact ⟨⟨⟨h1, h2⟩, h3⟩, ih (k + 1) h4 (by omega)⟩

theorem Memory.wf_write (m : Memory) (a : Nat) (v : Byte) (h : m.wf = true) (ha : a < 4096) : (m.write a v).wf = true :=
  Memory.wfFrom_write m 0 a v h (Nat.zero_le a) ha

/-- A run of writes inside the address space keeps the canonical form. -/
theorem Memory.wf_writeAll (m : Memory) (a : Nat) (bs : List Byte) (h : m.wf = true) (ha : a + bs.length ≤ 4096) :
    (m.writeAll a bs).wf = true := by
  induction bs generalizing m a with
  | nil => exact h
  | cons b bs ih =>
    simp only [List.length_cons] at ha
    exact ih (m.write a b) (a + 1) (m.wf_write a b h (by omega)) (by omega)

/-- Below the first address of a run of writes nothing changes. -/
theorem Memory.read_writeAll_lt (m : Memory) (a c : Nat) (bs : List Byte) (h : c < a) :
    (m.writeAll a bs).read c = m.read c := by
  induction bs generalizing m a with
  | nil => rfl
  | cons b bs ih =>
    simp only [Memory.writeAll]
    rw [ih (m.write a b) (a + 1) (by omega), m.read_write_ne a c b (by omega)]

/-- Above the last address of a run of writes nothing changes. -/
theorem Memory.read_writeAll_ge (m : Memory) (a c : Nat) (bs : List Byte) (h : a + bs.length ≤ c) :
    (m.writeAll a bs).read c = m.read c := by
  induction bs generalizing m a with
  | nil => rfl
  | cons b bs ih =>
    simp only [List.length_cons] at h
    simp only [Memory.writeAll]
    rw [ih (m.write a b) (a + 1) (by omega), m.read_write_ne a c b (by omega)]

/-- Byte j of a run of writes is at its address. -/
theorem Memory.read_writeAll_in (m : Memory) (a : Nat) (bs : List Byte) (h : m.wf = true) (ha : a + bs.length ≤ 4096)
    (j : Nat) (hj : j < bs.length) : (m.writeAll a bs).read (a + j) = bs[j] := by
  induction bs generalizing m a j with
  | nil => simp at hj
  | cons b bs ih =>
    simp only [List.length_cons] at ha hj
    simp only [Memory.writeAll]
    cases j with
    | zero => exact (Memory.read_writeAll_lt _ _ _ _ (by omega)).trans (m.read_write_self a b h)
    | succ j =>
      rw [show a + (j + 1) = a + 1 + j by omega]
      exact ih (m.write a b) (a + 1) (m.wf_write a b h (by omega)) (by omega) j (by omega)

/-- Reset's memory is in canonical form. -/
theorem reset_ram_wf : State.reset.ram.wf = true := rfl

/-! ### One byte of the machine's memory -/

theorem readByte_writeByte_ne (s : State) (a b : Addr) (v : Byte) (h : b ≠ a) :
    (s.writeByte a v).readByte b = s.readByte b :=
  Memory.read_write_ne s.ram a.toNat b.toNat v fun e => h (BitVec.eq_of_toNat_eq e)

theorem readByte_writeByte_self (s : State) (a : Addr) (v : Byte) (h : s.ram.wf = true) :
    (s.writeByte a v).readByte a = v :=
  Memory.read_write_self s.ram a.toNat v h

theorem ram_wf_writeByte (s : State) (a : Addr) (v : Byte) (h : s.ram.wf = true) : (s.writeByte a v).ram.wf = true :=
  Memory.wf_write s.ram a.toNat v h a.isLt

/-- The sixteen effective addresses of a block are distinct (R61). -/
theorem ea_injective (s : State) (j k : Nat) (hj : j < 16) (hk : k < 16) (h : s.ea j = s.ea k) : j = k := by
  have := congrArg BitVec.toNat h
  simp only [State.ea, BitVec.toNat_ofNat] at this
  omega

/-! ### The block store of FX55 -/

/-- A block store writes memory and nothing else. -/
theorem storeBlock_eq (s : State) (n : Nat) : s.storeBlock n = { s with ram := (s.storeBlock n).ram } := by
  induction n with
  | zero => rfl
  | succ k ih =>
    simp only [State.storeBlock, State.writeByte]
    rw [ih]

@[simp] theorem storeBlock_V (s : State) (n : Nat) : (s.storeBlock n).V = s.V := by rw [storeBlock_eq]
@[simp] theorem storeBlock_pc (s : State) (n : Nat) : (s.storeBlock n).pc = s.pc := by rw [storeBlock_eq]
@[simp] theorem storeBlock_I (s : State) (n : Nat) : (s.storeBlock n).I = s.I := by rw [storeBlock_eq]
@[simp] theorem storeBlock_stack (s : State) (n : Nat) : (s.storeBlock n).stack = s.stack := by rw [storeBlock_eq]
@[simp] theorem storeBlock_sp (s : State) (n : Nat) : (s.storeBlock n).sp = s.sp := by rw [storeBlock_eq]
@[simp] theorem storeBlock_opcode (s : State) (n : Nat) : (s.storeBlock n).opcode = s.opcode := by rw [storeBlock_eq]
@[simp] theorem storeBlock_DT (s : State) (n : Nat) : (s.storeBlock n).DT = s.DT := by rw [storeBlock_eq]
@[simp] theorem storeBlock_ST (s : State) (n : Nat) : (s.storeBlock n).ST = s.ST := by rw [storeBlock_eq]
@[simp] theorem storeBlock_screen (s : State) (n : Nat) : (s.storeBlock n).screen = s.screen := by rw [storeBlock_eq]
@[simp] theorem storeBlock_runState (s : State) (n : Nat) : (s.storeBlock n).runState = s.runState := by rw [storeBlock_eq]
@[simp] theorem storeBlock_fault (s : State) (n : Nat) : (s.storeBlock n).fault = s.fault := by rw [storeBlock_eq]
@[simp] theorem storeBlock_keys (s : State) (n : Nat) : (s.storeBlock n).keys = s.keys := by rw [storeBlock_eq]
@[simp] theorem storeBlock_keyEvent (s : State) (n : Nat) : (s.storeBlock n).keyEvent = s.keyEvent := by rw [storeBlock_eq]
@[simp] theorem storeBlock_rnd (s : State) (n : Nat) : (s.storeBlock n).rnd = s.rnd := by rw [storeBlock_eq]
@[simp] theorem storeBlock_turn (s : State) (n : Nat) : (s.storeBlock n).turn = s.turn := by rw [storeBlock_eq]
@[simp] theorem storeBlock_result (s : State) (n : Nat) : (s.storeBlock n).result = s.result := by rw [storeBlock_eq]
@[simp] theorem reg_storeBlock (s : State) (n : Nat) (r : RegId) : (s.storeBlock n).reg r = s.reg r := by rw [storeBlock_eq]; rfl
@[simp] theorem ea_storeBlock (s : State) (n k : Nat) : (s.storeBlock n).ea k = s.ea k := by simp [State.ea]

theorem ram_wf_storeBlock (s : State) (n : Nat) (h : s.ram.wf = true) : (s.storeBlock n).ram.wf = true := by
  induction n with
  | zero => exact h
  | succ k ih => exact ram_wf_writeByte _ _ _ ih

/-- Outside the block, a block store changes nothing. -/
theorem readByte_storeBlock_outside (s : State) (n : Nat) (a : Addr) (h : ∀ k < n, a ≠ s.ea k) :
    (s.storeBlock n).readByte a = s.readByte a := by
  induction n with
  | zero => rfl
  | succ k ih =>
    simp only [State.storeBlock]
    rw [readByte_writeByte_ne _ _ _ _ (by simpa using h k (Nat.lt_succ_self k)), ih fun j hj => h j (by omega)]

/-- Byte k of the block is Vk (R184). -/
theorem readByte_storeBlock_inside (s : State) (n k : Nat) (hn : n ≤ 16) (hk : k < n) (h : s.ram.wf = true) :
    (s.storeBlock n).readByte (s.ea k) = s.reg (BitVec.ofNat 4 k) := by
  induction n with
  | zero => omega
  | succ m ih =>
    simp only [State.storeBlock]
    by_cases hkm : k = m
    · subst hkm
      rw [ea_storeBlock, readByte_writeByte_self _ _ _ (ram_wf_storeBlock s k h), reg_storeBlock]
    · rw [readByte_writeByte_ne, ih (by omega) (by omega)]
      rw [ea_storeBlock]
      exact fun e => hkm (ea_injective s k m (by omega) (by omega) e)

end Sys2Proof.Machine
end

