-- ==== Sys2Proof/Laws/Operands.lean ====
section
/-! SUPPORT. What the operand forms and the flag computations are as numbers, so that no proof unfolds them. -/

namespace Sys2Proof.Machine

/-! ### Addresses -/

theorem mask12_toNat (w : Word) : (mask12 w).toNat = w.toNat % 4096 := by
  simp only [mask12, BitVec.toNat_and]
  exact Nat.and_two_pow_sub_one_eq_mod w.toNat 12

theorem mask12_le (w : Word) : mask12 w ≤ 0x0FFF#16 := by
  simp only [mask12, BitVec.le_def, BitVec.toNat_and]
  exact Nat.and_le_right

theorem zext16_toNat (a : Addr) : (zext16 a).toNat = a.toNat := by
  have := a.isLt
  simp [zext16]
  omega

theorem zext16_le (a : Addr) : zext16 a ≤ 0x0FFF#16 := by
  have := a.isLt
  rw [BitVec.le_def, zext16_toNat]
  simp
  omega

theorem byteToWord_toNat (b : Byte) : (byteToWord b).toNat = b.toNat := by
  have := b.isLt
  simp [byteToWord]
  omega

theorem ea_toNat (s : State) (k : Nat) : (s.ea k).toNat = (s.I.toNat + k) % 4096 := by simp [State.ea]

theorem indexPlus_toNat (s : State) (v : Byte) : (s.indexPlus v).toNat = (s.I.toNat + v.toNat) % 4096 := by
  simp only [State.indexPlus, mask12_toNat, BitVec.toNat_add, byteToWord_toNat]
  omega

theorem indexPastBlock_toNat (s : State) (x : RegId) :
    (s.indexPastBlock x).toNat = (s.I.toNat + x.toNat + 1) % 4096 := by
  have := x.isLt
  simp only [State.indexPastBlock, mask12_toNat, BitVec.toNat_add, BitVec.toNat_ofNat]
  omega

theorem glyphAddress_toNat (v : Byte) : (glyphAddress v).toNat = 5 * v.toNat := by
  have := v.isLt
  simp [glyphAddress, byteToWord_toNat]
  omega

theorem jumpTarget_toNat (nnn : Addr) (v : Byte) : (jumpTarget nnn v).toNat = nnn.toNat + v.toNat := by
  have := nnn.isLt
  have := v.isLt
  simp [jumpTarget, zext16_toNat, byteToWord_toNat]
  omega

theorem keyOf_toNat (v : Byte) : (keyOf v).toNat = v.toNat % 16 := by simp [keyOf]

/-- The fetched word depends on pc and memory alone. -/
theorem fetchWord_congr (s t : State) (hp : t.pc = s.pc) (hr : t.ram = s.ram) : t.fetchWord = s.fetchWord := by
  simp [State.fetchWord, State.fetchLower, State.fetchHigher, State.readByte, hp, hr]

/-! ### Digits -/

theorem bcdHundreds_toNat (v : Byte) : (bcdHundreds v).toNat = v.toNat / 100 := by
  have := v.isLt
  simp [bcdHundreds]
  omega

theorem bcdTens_toNat (v : Byte) : (bcdTens v).toNat = v.toNat / 10 % 10 := by
  simp [bcdTens]
  omega

theorem bcdOnes_toNat (v : Byte) : (bcdOnes v).toNat = v.toNat % 10 := by
  simp [bcdOnes]
  omega

/-! ### Flags -/

theorem flagByte_toNat (b : Bool) : (flagByte b).toNat = if b then 1 else 0 := by cases b <;> rfl

theorem flagByte_eq_one (b : Bool) : flagByte b = 1#8 ↔ b = true := by cases b <;> decide

theorem flagByte_bit (b : Bool) : flagByte b = 0#8 ∨ flagByte b = 1#8 := by cases b <;> decide

theorem carryOut_flag (a b : Byte) : (flagByte (carryOut a b)).toNat = if 256 ≤ a.toNat + b.toNat then 1 else 0 := by
  simp only [flagByte_toNat, carryOut, decide_eq_true_eq]
  split <;> split <;> omega

theorem noBorrow_flag (a b : Byte) : (flagByte (noBorrow a b)).toNat = if a.toNat < b.toNat then 0 else 1 := by
  simp only [flagByte_toNat, noBorrow, decide_eq_true_eq]
  split <;> split <;> omega

theorem evictedLow_flag : ∀ v : Byte, (flagByte (evictedLow v)).toNat = v.toNat % 2 := by decide

theorem evictedHigh_flag : ∀ v : Byte, (flagByte (evictedHigh v)).toNat = v.toNat / 128 := by decide

end Sys2Proof.Machine
end

