-- ==== Sys2Proof/Laws/PerInstr.lean ====
section
/-! SUPPORT. Statements about every instruction as syntax, one lemma per constructor. -/

namespace Sys2Proof.Laws.EncodeFixed

/-- The opcode of an instruction carries the fixed bits of its own row of R84: `encode i & mask = match`. -/
def Statement (i : Instr) : Prop := encode i &&& i.mask = i.fixedBits

theorem cls : Statement .cls := by
  unfold Statement
  decide

theorem ret : Statement .ret := by
  unfold Statement
  decide

theorem sys (nnn : Addr) : Statement (.sys nnn) := by
  simp [Statement, encode, Instr.mask, Instr.fixedBits, Instr.operandBits, placeNNN_and nnn]

theorem jp (nnn : Addr) : Statement (.jp nnn) := by
  simp [Statement, encode, Instr.mask, Instr.fixedBits, Instr.operandBits, or_and, placeNNN_and nnn]

theorem call (nnn : Addr) : Statement (.call nnn) := by
  simp [Statement, encode, Instr.mask, Instr.fixedBits, Instr.operandBits, or_and, placeNNN_and nnn]

theorem seImm (x : RegId) (nn : Byte) : Statement (.seImm x nn) := by
  simp [Statement, encode, Instr.mask, Instr.fixedBits, Instr.operandBits, or_and, placeX_and12 x, placeNN_and nn]

theorem sneImm (x : RegId) (nn : Byte) : Statement (.sneImm x nn) := by
  simp [Statement, encode, Instr.mask, Instr.fixedBits, Instr.operandBits, or_and, placeX_and12 x, placeNN_and nn]

theorem seReg (x : RegId) (y : RegId) : Statement (.seReg x y) := by
  simp [Statement, encode, Instr.mask, Instr.fixedBits, Instr.operandBits, or_and, placeX_andF x, placeY_andF y]

theorem ldImm (x : RegId) (nn : Byte) : Statement (.ldImm x nn) := by
  simp [Statement, encode, Instr.mask, Instr.fixedBits, Instr.operandBits, or_and, placeX_and12 x, placeNN_and nn]

theorem addImm (x : RegId) (nn : Byte) : Statement (.addImm x nn) := by
  simp [Statement, encode, Instr.mask, Instr.fixedBits, Instr.operandBits, or_and, placeX_and12 x, placeNN_and nn]

theorem ldReg (x : RegId) (y : RegId) : Statement (.ldReg x y) := by
  simp [Statement, encode, Instr.mask, Instr.fixedBits, Instr.operandBits, or_and, placeX_andF x, placeY_andF y]

theorem orReg (x : RegId) (y : RegId) : Statement (.orReg x y) := by
  simp [Statement, encode, Instr.mask, Instr.fixedBits, Instr.operandBits, or_and, placeX_andF x, placeY_andF y]

theorem andReg (x : RegId) (y : RegId) : Statement (.andReg x y) := by
  simp [Statement, encode, Instr.mask, Instr.fixedBits, Instr.operandBits, or_and, placeX_andF x, placeY_andF y]

theorem xorReg (x : RegId) (y : RegId) : Statement (.xorReg x y) := by
  simp [Statement, encode, Instr.mask, Instr.fixedBits, Instr.operandBits, or_and, placeX_andF x, placeY_andF y]

theorem addReg (x : RegId) (y : RegId) : Statement (.addReg x y) := by
  simp [Statement, encode, Instr.mask, Instr.fixedBits, Instr.operandBits, or_and, placeX_andF x, placeY_andF y]

theorem subReg (x : RegId) (y : RegId) : Statement (.subReg x y) := by
  simp [Statement, encode, Instr.mask, Instr.fixedBits, Instr.operandBits, or_and, placeX_andF x, placeY_andF y]

theorem shr (x : RegId) (y : RegId) : Statement (.shr x y) := by
  simp [Statement, encode, Instr.mask, Instr.fixedBits, Instr.operandBits, or_and, placeX_andF x, placeY_andF y]

theorem subn (x : RegId) (y : RegId) : Statement (.subn x y) := by
  simp [Statement, encode, Instr.mask, Instr.fixedBits, Instr.operandBits, or_and, placeX_andF x, placeY_andF y]

theorem shl (x : RegId) (y : RegId) : Statement (.shl x y) := by
  simp [Statement, encode, Instr.mask, Instr.fixedBits, Instr.operandBits, or_and, placeX_andF x, placeY_andF y]

theorem sneReg (x : RegId) (y : RegId) : Statement (.sneReg x y) := by
  simp [Statement, encode, Instr.mask, Instr.fixedBits, Instr.operandBits, or_and, placeX_andF x, placeY_andF y]

theorem ldI (nnn : Addr) : Statement (.ldI nnn) := by
  simp [Statement, encode, Instr.mask, Instr.fixedBits, Instr.operandBits, or_and, placeNNN_and nnn]

theorem jpV0 (nnn : Addr) : Statement (.jpV0 nnn) := by
  simp [Statement, encode, Instr.mask, Instr.fixedBits, Instr.operandBits, or_and, placeNNN_and nnn]

theorem rnd (x : RegId) (nn : Byte) : Statement (.rnd x nn) := by
  simp [Statement, encode, Instr.mask, Instr.fixedBits, Instr.operandBits, or_and, placeX_and12 x, placeNN_and nn]

theorem drw (x : RegId) (y : RegId) (n : Nibble) : Statement (.drw x y n) := by
  simp [Statement, encode, Instr.mask, Instr.fixedBits, Instr.operandBits, or_and, placeX_and12 x, placeY_and12 y, placeN_and12 n]

theorem skp (x : RegId) : Statement (.skp x) := by
  simp [Statement, encode, Instr.mask, Instr.fixedBits, Instr.operandBits, or_and, placeX_and x]

theorem sknp (x : RegId) : Statement (.sknp x) := by
  simp [Statement, encode, Instr.mask, Instr.fixedBits, Instr.operandBits, or_and, placeX_and x]

theorem ldVxDt (x : RegId) : Statement (.ldVxDt x) := by
  simp [Statement, encode, Instr.mask, Instr.fixedBits, Instr.operandBits, or_and, placeX_and x]

theorem ldVxK (x : RegId) : Statement (.ldVxK x) := by
  simp [Statement, encode, Instr.mask, Instr.fixedBits, Instr.operandBits, or_and, placeX_and x]

theorem ldDtVx (x : RegId) : Statement (.ldDtVx x) := by
  simp [Statement, encode, Instr.mask, Instr.fixedBits, Instr.operandBits, or_and, placeX_and x]

theorem ldStVx (x : RegId) : Statement (.ldStVx x) := by
  simp [Statement, encode, Instr.mask, Instr.fixedBits, Instr.operandBits, or_and, placeX_and x]

theorem addI (x : RegId) : Statement (.addI x) := by
  simp [Statement, encode, Instr.mask, Instr.fixedBits, Instr.operandBits, or_and, placeX_and x]

theorem ldF (x : RegId) : Statement (.ldF x) := by
  simp [Statement, encode, Instr.mask, Instr.fixedBits, Instr.operandBits, or_and, placeX_and x]

theorem ldB (x : RegId) : Statement (.ldB x) := by
  simp [Statement, encode, Instr.mask, Instr.fixedBits, Instr.operandBits, or_and, placeX_and x]

theorem storeRegs (x : RegId) : Statement (.storeRegs x) := by
  simp [Statement, encode, Instr.mask, Instr.fixedBits, Instr.operandBits, or_and, placeX_and x]

theorem loadRegs (x : RegId) : Statement (.loadRegs x) := by
  simp [Statement, encode, Instr.mask, Instr.fixedBits, Instr.operandBits, or_and, placeX_and x]

end Sys2Proof.Laws.EncodeFixed
end

