-- ==== Sys2Proof/Laws/Registers.lean ====
section
/-! SUPPORT. The laws of the general registers and of the block load of FX65. -/

namespace Sys2Proof.Machine

theorem reg_setReg (s : State) (x r : RegId) (v : Byte) : (s.setReg x v).reg r = if r = x then v else s.reg r := by
  by_cases h : r = x
  · subst h
    simp [State.reg]
  · have hne : x.toNat ≠ r.toNat := fun e => h (BitVec.eq_of_toNat_eq e.symm)
    simp [State.reg, h, Vector.getElem_set_ne, hne]

@[simp] theorem reg_setReg_self (s : State) (x : RegId) (v : Byte) : (s.setReg x v).reg x = v := by simp [reg_setReg]

theorem reg_setReg_ne (s : State) (x r : RegId) (v : Byte) (h : r ≠ x) : (s.setReg x v).reg r = s.reg r := by
  simp [reg_setReg, h]

theorem reg_setFlag (s : State) (r : RegId) (b : Bool) : (s.setFlag b).reg r = if r = regF then flagByte b else s.reg r :=
  reg_setReg s regF r (flagByte b)

/-- The end of the flag-producing ALU instructions, register by register: the flag wins where x = F (R130). -/
theorem reg_finishAlu (s : State) (x r : RegId) (v : Byte) (b : Bool) :
    (s.finishAlu x v b).reg r = if r = regF then flagByte b else if r = x then v else s.reg r := by
  simp [State.finishAlu, reg_setFlag, reg_setReg]

/-- A block load writes registers and nothing else. -/
theorem loadBlock_eq (s : State) (n : Nat) : s.loadBlock n = { s with V := (s.loadBlock n).V } := by
  induction n with
  | zero => rfl
  | succ k ih =>
    simp only [State.loadBlock, State.setReg]
    rw [ih]

@[simp] theorem loadBlock_pc (s : State) (n : Nat) : (s.loadBlock n).pc = s.pc := by rw [loadBlock_eq]
@[simp] theorem loadBlock_I (s : State) (n : Nat) : (s.loadBlock n).I = s.I := by rw [loadBlock_eq]
@[simp] theorem loadBlock_stack (s : State) (n : Nat) : (s.loadBlock n).stack = s.stack := by rw [loadBlock_eq]
@[simp] theorem loadBlock_sp (s : State) (n : Nat) : (s.loadBlock n).sp = s.sp := by rw [loadBlock_eq]
@[simp] theorem loadBlock_opcode (s : State) (n : Nat) : (s.loadBlock n).opcode = s.opcode := by rw [loadBlock_eq]
@[simp] theorem loadBlock_DT (s : State) (n : Nat) : (s.loadBlock n).DT = s.DT := by rw [loadBlock_eq]
@[simp] theorem loadBlock_ST (s : State) (n : Nat) : (s.loadBlock n).ST = s.ST := by rw [loadBlock_eq]
@[simp] theorem loadBlock_screen (s : State) (n : Nat) : (s.loadBlock n).screen = s.screen := by rw [loadBlock_eq]
@[simp] theorem loadBlock_ram (s : State) (n : Nat) : (s.loadBlock n).ram = s.ram := by rw [loadBlock_eq]
@[simp] theorem loadBlock_runState (s : State) (n : Nat) : (s.loadBlock n).runState = s.runState := by rw [loadBlock_eq]
@[simp] theorem loadBlock_fault (s : State) (n : Nat) : (s.loadBlock n).fault = s.fault := by rw [loadBlock_eq]
@[simp] theorem loadBlock_keys (s : State) (n : Nat) : (s.loadBlock n).keys = s.keys := by rw [loadBlock_eq]
@[simp] theorem loadBlock_keyEvent (s : State) (n : Nat) : (s.loadBlock n).keyEvent = s.keyEvent := by rw [loadBlock_eq]
@[simp] theorem loadBlock_rnd (s : State) (n : Nat) : (s.loadBlock n).rnd = s.rnd := by rw [loadBlock_eq]
@[simp] theorem loadBlock_turn (s : State) (n : Nat) : (s.loadBlock n).turn = s.turn := by rw [loadBlock_eq]
@[simp] theorem loadBlock_result (s : State) (n : Nat) : (s.loadBlock n).result = s.result := by rw [loadBlock_eq]
@[simp] theorem readByte_loadBlock (s : State) (n : Nat) (a : Addr) : (s.loadBlock n).readByte a = s.readByte a := by simp [State.readByte]
@[simp] theorem ea_loadBlock (s : State) (n k : Nat) : (s.loadBlock n).ea k = s.ea k := by simp [State.ea]

/-- Register by register: Vk is byte k of the block for the first n registers, and the others keep their values (R185). -/
theorem reg_loadBlock (s : State) (n : Nat) (hn : n ≤ 16) (r : RegId) :
    (s.loadBlock n).reg r = if r.toNat < n then s.readByte (s.ea r.toNat) else s.reg r := by
  induction n with
  | zero => rfl
  | succ k ih =>
    simp only [State.loadBlock, reg_setReg, readByte_loadBlock, ea_loadBlock]
    by_cases h : r = BitVec.ofNat 4 k
    · have hk : r.toNat = k := by
        rw [h, BitVec.toNat_ofNat]
        omega
      simp [h]
      have : k % 16 = k := by omega
      simp [this]
    · have hk : r.toNat ≠ k := fun e => h (BitVec.eq_of_toNat_eq (by rw [BitVec.toNat_ofNat, e]; omega))
      rw [if_neg h, ih (by omega)]
      by_cases hlt : r.toNat < k
      · rw [if_pos hlt, if_pos (by omega)]
      · rw [if_neg hlt, if_neg (by omega)]

end Sys2Proof.Machine
end

