-- ==== Sys2Proof/Laws/Screen.lean ====
section
/-! SUPPORT. The laws of the framebuffer: one pixel, and the whole blit (spec/44_display.md R154). -/

namespace Sys2Proof.Machine

@[simp] theorem Screen.get_dark (j : Fin 2048) : Screen.get Screen.dark j = false := by
  simp [Screen.get, Screen.dark]

theorem framebuffer_length (s : State) : s.framebuffer.length = 2048 := List.length_ofFn

/-- `framebuffer()` holds pixel j at place j (R210). -/
theorem framebuffer_getElem? (s : State) (j : Fin 2048) : s.framebuffer[j.val]? = some (Screen.get s.screen j) := by
  rw [State.framebuffer, List.getElem?_ofFn, dif_pos j.isLt]

/-- A framebuffer whose pixels are all the same. -/
theorem framebuffer_of_const (s : State) (b : Bool) (h : ∀ j : Fin 2048, Screen.get s.screen j = b) :
    s.framebuffer = List.replicate 2048 b := by
  rw [List.eq_replicate_iff]
  refine ⟨framebuffer_length s, fun c hc => ?_⟩
  obtain ⟨j, rfl⟩ := List.mem_ofFn.mp hc
  exact h j

/-- XOR of a bit into one pixel changes that pixel alone. -/
theorem Screen.get_xorPixel (scr : Screen) (i j : Fin 2048) (b : Bool) :
    Screen.get (Screen.xorPixel scr j b) i = (Screen.get scr i ^^ (decide (i = j) && b)) := by
  unfold Screen.get Screen.xorPixel
  simp only [Vector.getElem_set]
  by_cases hrow : j.val / 64 = i.val / 64
  · rw [if_pos hrow]
    by_cases hcol : i.val % 64 = j.val % 64
    · have hij : i = j := Fin.ext (by omega)
      subst hij
      have hlt : i.val % 64 < 64 := Nat.mod_lt _ (by omega)
      cases b <;> simp [hlt]
    · have hij : i ≠ j := fun e => hcol (by rw [e])
      have hi : i.val % 64 < 64 := Nat.mod_lt _ (by omega)
      have hj : j.val % 64 < 64 := Nat.mod_lt _ (by omega)
      simp only [hij, decide_false, Bool.false_and, Bool.xor_false, BitVec.getLsbD_xor, hrow]
      have : ((BitVec.ofBool b).setWidth 64 <<< (j.val % 64)).getLsbD (i.val % 64) = false := by
        rw [BitVec.getLsbD_shiftLeft]
        by_cases hlt : i.val % 64 < j.val % 64
        · simp [hlt]
        · have : i.val % 64 - j.val % 64 ≠ 0 := by omega
          cases b <;> simp [this]
      rw [this, Bool.xor_false]
  · have hij : i ≠ j := fun e => hrow (by rw [e])
    rw [if_neg hrow]
    simp [hij]

/-- Pixels of one sprite never coincide: two positions with the same index are the same position (R154). -/
theorem pixelIndex_injective (vx vy : Byte) (r c r' c' : Nat) (hr : r < 16) (hr' : r' < 16) (hc : c < 8) (hc' : c' < 8)
    (h : pixelIndex (vx.toNat + c) (vy.toNat + r) = pixelIndex (vx.toNat + c') (vy.toNat + r')) : r = r' ∧ c = c' := by
  have := congrArg Fin.val h
  simp only [pixelIndex] at this
  omega

/-- The position (r, c) of a sprite falls on pixel j. -/
abbrev Hits (vx vy : Byte) (r c : Nat) (j : Fin 2048) : Prop := pixelIndex (vx.toNat + c) (vy.toNat + r) = j

/-- One row of the blit: each of the first `n` columns toggles its pixel, and a lit pixel met by a 1 bit is a collision. -/
theorem cols_spec (acc : Blit) (vx vy : Byte) (row : Nat) (b : Byte) (n : Nat) (hrow : row < 16) (hn : n ≤ 8) :
    (∀ c, c < n → Screen.get (acc.cols vx vy row b n).screen (pixelIndex (vx.toNat + c) (vy.toNat + row)) =
      (Screen.get acc.screen (pixelIndex (vx.toNat + c) (vy.toNat + row)) ^^ spriteBit b c)) ∧
    (∀ j, (∀ c, c < n → ¬ Hits vx vy row c j) → Screen.get (acc.cols vx vy row b n).screen j = Screen.get acc.screen j) ∧
    ((acc.cols vx vy row b n).collision = true ↔ acc.collision = true ∨
      ∃ c, c < n ∧ Screen.get acc.screen (pixelIndex (vx.toNat + c) (vy.toNat + row)) = true ∧ spriteBit b c = true) := by
  induction n with
  | zero => simp [Blit.cols]
  | succ k ih =>
    obtain ⟨ih1, ih2, ih3⟩ := ih (by omega)
    have hfresh : ∀ c, c < k → ¬ Hits vx vy row c (pixelIndex (vx.toNat + k) (vy.toNat + row)) := by
      intro c hc h
      have := (pixelIndex_injective vx vy row c row k hrow hrow (by omega) (by omega) h).2
      omega
    have hold := ih2 _ hfresh
    refine ⟨?_, ?_, ?_⟩
    · intro c hc
      simp only [Blit.cols, Blit.pixel, Screen.get_xorPixel]
      by_cases h : c = k
      · subst h
        simp [hold]
      · have hne : pixelIndex (vx.toNat + c) (vy.toNat + row) ≠ pixelIndex (vx.toNat + k) (vy.toNat + row) :=
          fun e => hfresh c (by omega) e
        simp [hne, ih1 c (by omega)]
    · intro j hj
      have hne : j ≠ pixelIndex (vx.toNat + k) (vy.toNat + row) := fun e => hj k (by omega) e.symm
      simp only [Blit.cols, Blit.pixel, Screen.get_xorPixel]
      simp [hne, ih2 j fun c hc => hj c (by omega)]
    · simp only [Blit.cols, Blit.pixel, hold, Bool.or_eq_true, ih3, Bool.and_eq_true]
      constructor
      · rintro ((h | ⟨c, hc, h⟩) | h)
        · exact Or.inl h
        · exact Or.inr ⟨c, by omega, h⟩
        · exact Or.inr ⟨k, by omega, h⟩
      · rintro (h | ⟨c, hc, h⟩)
        · exact Or.inl (Or.inl h)
        · by_cases hck : c = k
          · subst hck
            exact Or.inr h
          · exact Or.inl (Or.inr ⟨c, by omega, h⟩)

/-- The blit of the first `n` rows of a sprite, pixel by pixel, and its aggregate collision (R154). -/
theorem rows_spec (acc : Blit) (vx vy : Byte) (f : Nat → Byte) (n : Nat) (hn : n ≤ 16) :
    (∀ r c, r < n → c < 8 → Screen.get (acc.rows vx vy f n).screen (pixelIndex (vx.toNat + c) (vy.toNat + r)) =
      (Screen.get acc.screen (pixelIndex (vx.toNat + c) (vy.toNat + r)) ^^ spriteBit (f r) c)) ∧
    (∀ j, (∀ r c, r < n → c < 8 → ¬ Hits vx vy r c j) → Screen.get (acc.rows vx vy f n).screen j = Screen.get acc.screen j) ∧
    ((acc.rows vx vy f n).collision = true ↔ acc.collision = true ∨
      ∃ r c, r < n ∧ c < 8 ∧ Screen.get acc.screen (pixelIndex (vx.toNat + c) (vy.toNat + r)) = true ∧
        spriteBit (f r) c = true) := by
  induction n with
  | zero => simp [Blit.rows]
  | succ k ih =>
    obtain ⟨ih1, ih2, ih3⟩ := ih (by omega)
    obtain ⟨c1, c2, c3⟩ := cols_spec (acc.rows vx vy f k) vx vy k (f k) 8 (by omega) (Nat.le_refl 8)
    have hfresh : ∀ c, c < 8 → Screen.get (acc.rows vx vy f k).screen (pixelIndex (vx.toNat + c) (vy.toNat + k)) =
        Screen.get acc.screen (pixelIndex (vx.toNat + c) (vy.toNat + k)) := by
      intro c hc
      refine ih2 _ fun r c' hr hc' h => ?_
      have := (pixelIndex_injective vx vy r c' k c (by omega) (by omega) hc' hc h).1
      omega
    refine ⟨?_, ?_, ?_⟩
    · intro r c hr hc
      simp only [Blit.rows]
      by_cases h : r = k
      · subst h
        rw [c1 c hc, hfresh c hc]
      · rw [c2, ih1 r c (by omega) hc]
        intro c' hc' e
        have := (pixelIndex_injective vx vy k c' r c (by omega) (by omega) hc' hc e).1
        omega
    · intro j hj
      simp only [Blit.rows]
      rw [c2 j fun c hc => hj k c (by omega) hc, ih2 j fun r c hr hc => hj r c (by omega) hc]
    · simp only [Blit.rows, c3, ih3]
      constructor
      · rintro ((h | ⟨r, c, hr, hc, h⟩) | ⟨c, hc, h1, h2⟩)
        · exact Or.inl h
        · exact Or.inr ⟨r, c, by omega, hc, h⟩
        · exact Or.inr ⟨k, c, by omega, hc, by rwa [hfresh c hc] at h1, h2⟩
      · rintro (h | ⟨r, c, hr, hc, h1, h2⟩)
        · exact Or.inl (Or.inl h)
        · by_cases hrk : r = k
          · subst hrk
            exact Or.inr ⟨c, hc, by rw [hfresh c hc]; exact h1, h2⟩
          · exact Or.inl (Or.inr ⟨r, c, by omega, hc, h1, h2⟩)

end Sys2Proof.Machine
end

