-- ==== Sys2Proof/Laws/Timers.lean ====
section
/-! SUPPORT. The tick in closed form is the tick repeated. -/

namespace Sys2Proof.Machine

theorem tickTimer_countDown (t : Byte) (n : Nat) : tickTimer (countDown t n) = countDown t (n + 1) := by
  unfold tickTimer countDown
  have ht : t.toNat < 256 := t.isLt
  by_cases h0 : t = 0
  · simp [h0]
  · rw [if_neg h0, if_neg h0]
    have hn : (BitVec.ofNat 8 (t.toNat - n)).toNat = t.toNat - n := by
      rw [BitVec.toNat_ofNat]
      omega
    by_cases h : t.toNat ≤ n
    · have h1 : t.toNat - n = 0 := by omega
      have h2 : t.toNat - (n + 1) = 0 := by omega
      simp [h1, h2]
    · have hne : BitVec.ofNat 8 (t.toNat - n) ≠ 0 := fun e => by
        have := congrArg BitVec.toNat e
        rw [hn] at this
        simp at this
        omega
      rw [if_neg hne]
      apply BitVec.eq_of_toNat_eq
      rw [BitVec.toNat_sub_of_le (by rw [BitVec.le_def, hn]; simp; omega), hn, BitVec.toNat_ofNat]
      simp
      omega

theorem countDown_zero (t : Byte) : countDown t 0 = t := by
  unfold countDown
  split
  · exact Eq.symm (by assumption)
  · simp

/-- Ticking many times and once more. -/
theorem tickMany_succ (s : State) (n : Nat) : (s.tickMany n).tickTimers = s.tickMany (n + 1) := by
  unfold State.tickTimers
  by_cases h : s.runState = .halted
  · simp [h]
    simp [State.tickMany, h]
  · simp [h]
    simp [State.tickMany, h, tickTimer_countDown]

/-- `tickMany n` is `n` operations `tick_timers`, one after another (R173, R174). -/
theorem tickMany_eq_iterate (s : State) (n : Nat) : s.tickMany n = State.tickTimers^[n] s := by
  induction n with
  | zero => simp [State.tickMany, countDown_zero]
  | succ k ih => rw [Function.iterate_succ_apply', ← ih, tickMany_succ]

end Sys2Proof.Machine
end

