-- ==== Sys2Proof/Tests/Slice0.lean ====
section
/-! SUPPORT. Tests of the model. Expected values are those of spec/95_test_vectors.md (its row is named in each comment) or worked by
hand from the cited rule; none is the model's own answer. The last part shows, for every statement of Obligations.lean that has
hypotheses, a state and operands that meet them. -/

namespace Sys2Proof.Tests

open Sys2Proof.Machine

/-! ## Ill-formed terms are refused -/

/-- `SYS 0E0` would be `CLS` (R83). -/
theorem test_sys_0E0_ill_formed : (Instr.sys 0x0E0#12).wellFormed = false := by decide

/-- `SYS 0EE` would be `RET` (R83). -/
theorem test_sys_0EE_ill_formed : (Instr.sys 0x0EE#12).wellFormed = false := by decide

/-- `00E1` is `SYS 0E1` (95_test_vectors.md 2.1). -/
theorem test_sys_0E1_well_formed : (Instr.sys 0x0E1#12).wellFormed = true := by decide

/-! ## One word of every row, bit by bit from its encoding in R84 -/

theorem test_decode_cls : decode [0b0000_0000#8, 0b1110_0000#8] = .ok (.cls, []) := by decide
theorem test_decode_ret : decode [0b0000_0000#8, 0b1110_1110#8] = .ok (.ret, []) := by decide
theorem test_decode_sys : decode [0b0000_1111#8, 0b1111_1111#8] = .ok (.sys 0xFFF#12, []) := by decide
theorem test_decode_jp : decode [0b0001_1010#8, 0b1011_1100#8] = .ok (.jp 0xABC#12, []) := by decide
theorem test_decode_call : decode [0b0010_0010#8, 0b0000_1010#8] = .ok (.call 0x20A#12, []) := by decide
theorem test_decode_seImm : decode [0b0011_1111#8, 0b0000_0001#8] = .ok (.seImm 0xF#4 0x01#8, []) := by decide
theorem test_decode_sneImm : decode [0b0100_0010#8, 0b0001_0001#8] = .ok (.sneImm 2#4 0x11#8, []) := by decide
theorem test_decode_seReg : decode [0b0101_0001#8, 0b0010_0000#8] = .ok (.seReg 1#4 2#4, []) := by decide
theorem test_decode_ldImm : decode [0b0110_1010#8, 0b0010_1011#8] = .ok (.ldImm 0xA#4 0x2B#8, []) := by decide
theorem test_decode_addImm : decode [0b0111_0011#8, 0b0001_0000#8] = .ok (.addImm 3#4 0x10#8, []) := by decide
theorem test_decode_ldReg : decode [0b1000_0011#8, 0b0101_0000#8] = .ok (.ldReg 3#4 5#4, []) := by decide
theorem test_decode_orReg : decode [0b1000_0011#8, 0b0101_0001#8] = .ok (.orReg 3#4 5#4, []) := by decide
theorem test_decode_andReg : decode [0b1000_0011#8, 0b0101_0010#8] = .ok (.andReg 3#4 5#4, []) := by decide
theorem test_decode_xorReg : decode [0b1000_1010#8, 0b1011_0011#8] = .ok (.xorReg 0xA#4 0xB#4, []) := by decide
theorem test_decode_addReg : decode [0b1000_0011#8, 0b0101_0100#8] = .ok (.addReg 3#4 5#4, []) := by decide
theorem test_decode_subReg : decode [0b1000_0011#8, 0b0101_0101#8] = .ok (.subReg 3#4 5#4, []) := by decide
theorem test_decode_shr : decode [0b1000_0010#8, 0b1010_0110#8] = .ok (.shr 2#4 0xA#4, []) := by decide
theorem test_decode_subn : decode [0b1000_0011#8, 0b0101_0111#8] = .ok (.subn 3#4 5#4, []) := by decide
theorem test_decode_shl : decode [0b1000_1010#8, 0b1011_1110#8] = .ok (.shl 0xA#4 0xB#4, []) := by decide
theorem test_decode_sneReg : decode [0b1001_0001#8, 0b0010_0000#8] = .ok (.sneReg 1#4 2#4, []) := by decide
theorem test_decode_ldI : decode [0b1010_0010#8, 0b1111_0000#8] = .ok (.ldI 0x2F0#12, []) := by decide
theorem test_decode_jpV0 : decode [0b1011_0011#8, 0b0000_0000#8] = .ok (.jpV0 0x300#12, []) := by decide
theorem test_decode_rnd : decode [0b1100_0101#8, 0b0000_1111#8] = .ok (.rnd 5#4 0x0F#8, []) := by decide
theorem test_decode_drw : decode [0b1101_0101#8, 0b1010_0011#8] = .ok (.drw 5#4 0xA#4 3#4, []) := by decide
theorem test_decode_skp : decode [0b1110_0001#8, 0b1001_1110#8] = .ok (.skp 1#4, []) := by decide
theorem test_decode_sknp : decode [0b1110_0011#8, 0b1010_0001#8] = .ok (.sknp 3#4, []) := by decide
theorem test_decode_ldVxDt : decode [0b1111_0100#8, 0b0000_0111#8] = .ok (.ldVxDt 4#4, []) := by decide
theorem test_decode_ldVxK : decode [0b1111_1111#8, 0b0000_1010#8] = .ok (.ldVxK 0xF#4, []) := by decide
theorem test_decode_ldDtVx : decode [0b1111_0100#8, 0b0001_0101#8] = .ok (.ldDtVx 4#4, []) := by decide
theorem test_decode_ldStVx : decode [0b1111_0100#8, 0b0001_1000#8] = .ok (.ldStVx 4#4, []) := by decide
theorem test_decode_addI : decode [0b1111_0011#8, 0b0001_1110#8] = .ok (.addI 3#4, []) := by decide
theorem test_decode_ldF : decode [0b1111_0001#8, 0b0010_1001#8] = .ok (.ldF 1#4, []) := by decide
theorem test_decode_ldB : decode [0b1111_0000#8, 0b0011_0011#8] = .ok (.ldB 0#4, []) := by decide
theorem test_decode_storeRegs : decode [0b1111_0101#8, 0b0101_0101#8] = .ok (.storeRegs 5#4, []) := by decide
theorem test_decode_loadRegs : decode [0b1111_0010#8, 0b0110_0101#8] = .ok (.loadRegs 2#4, []) := by decide

/-- R86: no row matches (95_test_vectors.md 2.1). -/
theorem test_decode_unrecognized :
    [0x5121#16, 0x8AB8#16, 0x8ABF#16, 0x9AB1#16, 0xE19F#16, 0xE000#16, 0xF375#16, 0xFFFF#16].all
      (fun op => (decodeWord op).isNone) = true := by decide

/-- An unrecognised word is refused by its name. -/
theorem test_decode_refuses_by_name : decode [0x5A#8, 0xB1#8] = .error (.unrecognizedOpcode 0x5AB1#16) := by decide

/-- One byte is no opcode (R80). -/
theorem test_decode_one_byte : decode [0x12#8] = .error .truncated := by decide

/-- R92: the worked word of `DRW V0, V1, 2`, 95_test_vectors.md P3. -/
theorem test_encode_drw : encode (.drw 0#4 1#4 2#4) = 0xD012#16 := by decide

/-- The table's numbering: bit 0 is the least significant bit of the word. -/
theorem test_table_word : decodeTableWord 16 0x8AB3 = some (.xorReg 0xA#4 0xB#4) := by decide

/-! ## Small states -/

/-- Inputs of a step on which nothing is pressed. -/
def quiet : StepInputs := { keys := 0, keyEvent := none, rnd := 0 }

/-- The reset state with some registers, given as (number, value). -/
def withRegs (vs : List (RegId × Byte)) : State := vs.foldl (fun s p => s.setReg p.1 p.2) State.reset

/-- The spec's `step` on a word stored at the pc (`State.withFetchWord`), with given inputs. -/
def after (w : Nat) (s : State) (inp : StepInputs := quiet) : State :=
  match (HostOp.step inp).apply (s.withFetchWord 16 w) with
  | .next t => t
  | .fault _ => s
  | .refused _ => s

/-- The lit pixels of the framebuffer, by index. -/
def lit (s : State) (js : List (Fin 2048)) : List Bool := js.map fun j => Screen.get s.screen j

/-- A sprite of the bytes F0 81 at 0x300, I at it. -/
def sprite (vs : List (RegId × Byte)) : State :=
  { withRegs vs with I := 0x0300#16, ram := [(0x300, 0xF0#8), (0x301, 0x81#8)] }

/-- The pixel 0 alone lit. -/
def pixelZeroLit : Screen := Screen.dark.xorPixel 0 true

/-- The step's result and pc. -/
def ends (s : State) : Option StepResult × Word := (s.result, s.pc)

/-- Running on at a pc. -/
def okAt (o : StepOutcome) (pc : Word) : Option StepResult × Word := (some (.ok o false), pc)

/-! ## One step of each instruction -/

/-- S7, D11: pixel 0 was lit; VF is untouched. -/
theorem test_cls_dark : let t := after 0x00E0 { withRegs [(0xF, 5)] with screen := pixelZeroLit }
    (lit t [0], t.reg 0xF, ends t) = ([false], 5, okAt .advanced 0x0202) := by decide

/-- 2.2: pc = 020C, sp = 1, stack[0] = 0204: after 00EE pc = 0206, sp = 0. -/
theorem test_ret_resumes : let t := after 0x00EE { State.reset with pc := 0x020C, sp := 1, stack := State.reset.stack.set 0 0x0204 }
    (ends t, t.sp.val, t.stack[0]) = (okAt .advanced 0x0206, 0, 0x0204) := by decide

/-- 2.2: 00EE with sp = 0. -/
theorem test_ret_underflow : let t := after 0x00EE State.reset
    (t.opcode, t.runState, t.fault, ends t) = (0x00EE, .halted, .stackUnderflow, (some (.err .stackUnderflow (some 0x200)), 0x0200)) := by decide

/-- 2.2: 0123 advances. -/
theorem test_sys_nop : ends (after 0x0123 State.reset) = okAt .advanced 0x0202 := by decide

/-- 2.2: 1ABC. -/
theorem test_jp : ends (after 0x1ABC State.reset) = okAt .jumped 0x0ABC := by decide

/-- 2.2: 1201, an odd address. -/
theorem test_jp_odd : ends (after 0x1201 State.reset) = okAt .jumped 0x0201 := by decide

/-- 2.2: pc = 0300, sp = 0F, 2400: stack[0F] = 0300, sp = 10. -/
theorem test_call_last_slot : let t := after 0x2400 { State.reset with pc := 0x0300, sp := 15 }
    (ends t, t.sp.val, t.stack[15]) = (okAt .jumped 0x0400, 16, 0x0300) := by decide

/-- 2.2: pc = 0300, sp = 10, 2400. -/
theorem test_call_overflow : let t := after 0x2400 { State.reset with pc := 0x0300, sp := 16 }
    (t.runState, t.fault, t.sp.val, ends t) = (.halted, .stackOverflow, 16, (some (.err .stackOverflow (some 0x300)), 0x0300)) := by decide

/-- 2.3: V1 = 00, pc = 0208, 3100. -/
theorem test_seImm_skips : ends (after 0x3100 { State.reset with pc := 0x0208 }) = okAt .skipped 0x020C := by decide

/-- 2.3: V1 = 01, pc = 0208, 3100. -/
theorem test_seImm_runs_on : ends (after 0x3100 { withRegs [(1, 1)] with pc := 0x0208 }) = okAt .advanced 0x020A := by decide

/-- 2.3: V2 = 10, 4211. -/
theorem test_sneImm_skips : ends (after 0x4211 (withRegs [(2, 0x10)])) = okAt .skipped 0x0204 := by decide

/-- 2.3: V2 = 10, 4210. -/
theorem test_sneImm_runs_on : ends (after 0x4210 (withRegs [(2, 0x10)])) = okAt .advanced 0x0202 := by decide

/-- 2.3: V0 = V1 = 7F, 5010. -/
theorem test_seReg_skips : ends (after 0x5010 (withRegs [(0, 0x7F), (1, 0x7F)])) = okAt .skipped 0x0204 := by decide

/-- 2.3: V0 = 7F, V1 = 7E, 5010. -/
theorem test_seReg_runs_on : ends (after 0x5010 (withRegs [(0, 0x7F), (1, 0x7E)])) = okAt .advanced 0x0202 := by decide

/-- 2.4: 6A2B. -/
theorem test_ldImm : let t := after 0x6A2B State.reset
    (t.reg 0xA, ends t) = (0x2B, okAt .advanced 0x0202) := by decide

/-- 2.4: 6F00 is a plain write. -/
theorem test_ldImm_VF : (after 0x6F00 (withRegs [(0xF, 1)])).reg 0xF = 0 := by decide

/-- S2: V3 = FA, VF = 01, 7310. -/
theorem test_addImm_wraps : let t := after 0x7310 (withRegs [(3, 0xFA), (0xF, 1)])
    (t.reg 3, t.reg 0xF) = (0x0A, 1) := by decide

/-- 2.4: VF = FF, 7F02. -/
theorem test_addImm_VF : (after 0x7F02 (withRegs [(0xF, 0xFF)])).reg 0xF = 1 := by decide

/-- 2.5: V1 = 3C, VF = 01, 8010. -/
theorem test_ldReg : let t := after 0x8010 (withRegs [(1, 0x3C), (0xF, 1)])
    (t.reg 0, t.reg 0xF) = (0x3C, 1) := by decide

/-- 2.5: F0 | 0F, VF kept. -/
theorem test_orReg : let t := after 0x8011 (withRegs [(0, 0xF0), (1, 0x0F), (0xF, 1)])
    (t.reg 0, t.reg 0xF) = (0xFF, 1) := by decide

/-- 2.5: F0 & 3C. -/
theorem test_andReg : (after 0x8012 (withRegs [(0, 0xF0), (1, 0x3C)])).reg 0 = 0x30 := by decide

/-- 2.5: F0 ^ 3C. -/
theorem test_xorReg : (after 0x8013 (withRegs [(0, 0xF0), (1, 0x3C)])).reg 0 = 0xCC := by decide

/-- 2.5: V4 = 5A, 8443. -/
theorem test_xorReg_self : (after 0x8443 (withRegs [(4, 0x5A)])).reg 4 = 0 := by decide

/-- S3: FF + 01. -/
theorem test_addReg_carry : let t := after 0x8014 (withRegs [(0, 0xFF), (1, 1)])
    (t.reg 0, t.reg 0xF) = (0, 1) := by decide

/-- 2.5: V0 = 05, VF = 01, 80F4: the old VF is the operand. -/
theorem test_addReg_old_VF : let t := after 0x80F4 (withRegs [(0, 5), (0xF, 1)])
    (t.reg 0, t.reg 0xF) = (6, 0) := by decide

/-- S5: 01 - 02. -/
theorem test_subReg_borrow : let t := after 0x8015 (withRegs [(0, 1), (1, 2)])
    (t.reg 0, t.reg 0xF) = (0xFF, 0) := by decide

/-- 2.5: 05 - 05 borrows nothing. -/
theorem test_subReg_equal : let t := after 0x8015 (withRegs [(0, 5), (1, 5)])
    (t.reg 0, t.reg 0xF) = (0, 1) := by decide

/-- 2.5: V2 = 05, VA = FF, 82A6. -/
theorem test_shr_ignores_y : let t := after 0x82A6 (withRegs [(2, 5), (0xA, 0xFF)])
    (t.reg 2, t.reg 0xF) = (2, 1) := by decide

/-- 2.5: VF = 02, 8F06: the shifted byte is lost. -/
theorem test_shr_VF : (after 0x8F06 (withRegs [(0xF, 2)])).reg 0xF = 0 := by decide

/-- 2.5: V0 = 01, V1 = 02, 8017. -/
theorem test_subn : let t := after 0x8017 (withRegs [(0, 1), (1, 2)])
    (t.reg 0, t.reg 0xF) = (1, 1) := by decide

/-- 2.5: V0 = 02, V1 = 01, 8017. -/
theorem test_subn_borrow : let t := after 0x8017 (withRegs [(0, 2), (1, 1)])
    (t.reg 0, t.reg 0xF) = (0xFF, 0) := by decide

/-- 2.5: V2 = 81, 820E. -/
theorem test_shl : let t := after 0x820E (withRegs [(2, 0x81)])
    (t.reg 2, t.reg 0xF) = (2, 1) := by decide

/-- 2.5: VF = 80, 8F0E. -/
theorem test_shl_VF : (after 0x8F0E (withRegs [(0xF, 0x80)])).reg 0xF = 1 := by decide

/-- 2.3: V0 = 01, V1 = 02, 9010. -/
theorem test_sneReg_skips : ends (after 0x9010 (withRegs [(0, 1), (1, 2)])) = okAt .skipped 0x0204 := by decide

/-- 2.3: x = y, 9330. -/
theorem test_sneReg_same : ends (after 0x9330 (withRegs [(3, 9)])) = okAt .advanced 0x0202 := by decide

/-- 2.4: AFFF. -/
theorem test_ldI : (after 0xAFFF { State.reset with I := 0x0123 }).I = 0x0FFF := by decide

/-- 2.2: V0 = 00, V5 = 40, B500. -/
theorem test_jpV0_not_V5 : ends (after 0xB500 (withRegs [(5, 0x40)])) = okAt .jumped 0x0500 := by decide

/-- 2.2: V0 = FF, BFFF. -/
theorem test_jpV0_unmasked : ends (after 0xBFFF (withRegs [(0, 0xFF)])) = okAt .jumped 0x10FE := by decide

/-- 2.4: rnd = B7, C50F. -/
theorem test_rnd_masked : (after 0xC50F State.reset { quiet with rnd := 0xB7 }).reg 5 = 0x07 := by decide

/-- 2.4: rnd = AB, CFF0. -/
theorem test_rnd_VF : (after 0xCFF0 State.reset { quiet with rnd := 0xAB }).reg 0xF = 0xA0 := by decide

/-- D4: six pixels around both edges, none beside them. -/
theorem test_drw_wraps : let t := after 0xD012 (sprite [(0, 0x3E), (1, 0x1F)])
    (lit t [2046, 2047, 1984, 1985, 62, 5, 1986, 63, 0, 4], t.reg 0xF) =
      ([true, true, true, true, true, true, false, false, false, false], 0) := by decide

/-- D6 with the row F0: a lit pixel is erased, others are set. -/
theorem test_drw_collides : let t := after 0xD011 { sprite [] with screen := pixelZeroLit }
    (lit t [0, 1, 2, 3, 4], t.reg 0xF) = ([false, true, true, true, false], 1) := by decide

/-- 2.7: V3 = 1A, keys = 0400: key A. -/
theorem test_skp : ends (after 0xE39E (withRegs [(3, 0x1A)]) { quiet with keys := 0x0400 }) = okAt .skipped 0x0204 := by decide

/-- 2.7: V3 = 05, keys = FFDF. -/
theorem test_skp_other_keys : ends (after 0xE39E (withRegs [(3, 5)]) { quiet with keys := 0xFFDF }) = okAt .advanced 0x0202 := by decide

/-- 2.7: V3 = 05, keys = 0020. -/
theorem test_sknp_pressed : ends (after 0xE3A1 (withRegs [(3, 5)]) { quiet with keys := 0x0020 }) = okAt .advanced 0x0202 := by decide

/-- 2.7: V3 = 05, keys = 0000. -/
theorem test_sknp_released : ends (after 0xE3A1 (withRegs [(3, 5)])) = okAt .skipped 0x0204 := by decide

/-- 2.8: DT = 2A, F407. -/
theorem test_ldVxDt : let t := after 0xF407 { State.reset with DT := 0x2A }
    (t.reg 4, t.DT) = (0x2A, 0x2A) := by decide

/-- 2.7: keys = FFFF and no key event: it waits. -/
theorem test_ldVxK_waits : let t := after 0xF30A (withRegs [(3, 9)]) { quiet with keys := 0xFFFF }
    (t.runState, t.reg 3, ends t) = (.awaitingKey, 9, okAt .waiting 0x0200) := by decide

/-- 2.7: the wait ends with the key event 7. -/
theorem test_ldVxK_completes : let t := after 0xF30A { State.reset with runState := .awaitingKey, opcode := 0xF30A } { quiet with keyEvent := some 7 }
    (t.runState, t.reg 3, ends t) = (.running, 7, okAt .advanced 0x0202) := by decide

/-- 2.8: V4 = 3C, F415. -/
theorem test_ldDtVx : let t := after 0xF415 (withRegs [(4, 0x3C)])
    (t.DT, t.ST) = (0x3C, 0) := by decide

/-- 2.8: V4 = 05, F418. -/
theorem test_ldStVx : let t := after 0xF418 (withRegs [(4, 5)])
    (t.ST, t.DT) = (5, 0) := by decide

/-- 2.9: I = 0FFF, V2 = 01, VF = 00, F21E. -/
theorem test_addI_no_flag : let t := after 0xF21E { withRegs [(2, 1)] with I := 0x0FFF }
    (t.I, t.reg 0xF) = (0, 0) := by decide

/-- 2.9: I = 0FF0, V2 = FF, F21E. -/
theorem test_addI_wraps : (after 0xF21E { withRegs [(2, 0xFF)] with I := 0x0FF0 }).I = 0x00EF := by decide

/-- 2.9: V0 = 0A, F029. -/
theorem test_ldF : (after 0xF029 (withRegs [(0, 0x0A)])).I = 0x0032 := by decide

/-- 2.9: V0 = FF, F029. -/
theorem test_ldF_whole_byte : (after 0xF029 (withRegs [(0, 0xFF)])).I = 0x04FB := by decide

/-- S9: V0 = 105, I = 0300, F033. -/
theorem test_ldB : let t := after 0xF033 { withRegs [(0, 105)] with I := 0x0300 }
    ([t.readByte 0x300, t.readByte 0x301, t.readByte 0x302], t.I) = ([1, 0, 5], 0x0300) := by decide

/-- 2.9: V0 = 0 over FF FF FF: equal memories are equal data, so nothing but the opcode stays listed. -/
theorem test_ldB_zero : (after 0xF033 { State.reset with I := 0x0300, ram := [(0x300, 0xFF), (0x301, 0xFF), (0x302, 0xFF)] }).ram =
      [(0x200, 0xF0#8), (0x201, 0x33#8)] := by decide

/-- 2.9: V0 to V2 = 11 22 33, I = 0400, F255. -/
theorem test_storeRegs : let t := after 0xF255 { withRegs [(0, 0x11), (1, 0x22), (2, 0x33), (3, 0x44)] with I := 0x0400 }
    ([t.readByte 0x400, t.readByte 0x401, t.readByte 0x402, t.readByte 0x403], t.I) = ([0x11, 0x22, 0x33, 0], 0x0403) := by decide

/-- 2.9: with I = 0FFE, EA(2) is 000 (R58). -/
theorem test_ea_wraps : ({ State.reset with I := 0x0FFE } : State).ea 2 = 0x000 := by decide

/-- 2.9: 11 22 33 at I = 0400, V3 = 77, F265. -/
theorem test_loadRegs : let t := after 0xF265 { withRegs [(3, 0x77)] with I := 0x0400, ram := [(0x400, 0x11#8), (0x401, 0x22#8), (0x402, 0x33#8)] }
    ([t.reg 0, t.reg 1, t.reg 2, t.reg 3], t.I) = ([0x11, 0x22, 0x33, 0x77], 0x0403) := by decide

/-- 2.9: ram[FFF] = 5A, ram[000] = F0, I = 0FFF, F165. -/
theorem test_loadRegs_wraps : let t := after 0xF165 { State.reset with I := 0x0FFF, ram := [(0x000, 0xF0#8), (0xFFF, 0x5A#8)] }
    ([t.reg 0, t.reg 1], t.I) = ([0x5A, 0xF0], 0x0001) := by decide

/-! ## The cycle and the host -/

/-- 2.10: 5AB1 is reported and skipped over. -/
theorem test_unrecognized_reports : let t := after 0x5AB1 State.reset
    (t.opcode, t.pc, t.result) = (0x5AB1, 0x0202, some (.ok .advanced true)) := by decide

/-- 2.10: pc = 0FFF, opcode = 1FFF. -/
theorem test_fetch_past_memory : cycle { State.reset with pc := 0x0FFF, opcode := 0x1FFF } =
    .next { State.reset with
      pc := 0x0FFF, opcode := 0x1FFF, runState := .halted, fault := .addressFault,
      result := some (.err .addressFault (some 0xFFF)) } := by rfl

/-- 2.2: a word at 0FFE runs; pc goes to 1000. -/
theorem test_fetch_last_word : ends (after 0x0000 { State.reset with pc := 0x0FFE }) = okAt .advanced 0x1000 := by decide

/-- 2.10: Halted: a step returns the latched fault again. -/
theorem test_halted_step :
    (after 0x6001 { State.reset with runState := .halted, fault := .stackOverflow }).result =
      some (.err .stackOverflow none) := by decide

/-- 2.10: DT = 05 in Halted: a tick does nothing. -/
theorem test_halted_tick : ({ State.reset with DT := 5, runState := .halted } : State).tickTimers.DT = 5 := by decide

/-- 2.8: DT = FF, ST = 01: a tick. -/
theorem test_tick :
    let t := ({ State.reset with DT := 0xFF, ST := 1 } : State).tickTimers
    (t.DT, t.ST) = (0xFE, 0) := by decide

/-- 2.8: a timer at 0 stays at 0. -/
theorem test_tick_saturates : State.reset.tickTimers.DT = 0 := by decide

/-- 2.10: `load_rom` of 12 00. -/
theorem test_load_rom :
    let t := (State.reset.loadRom [0x12, 0x00]).1
    (t.readByte 0x200, t.readByte 0x201, t.readByte 0x202) = (0x12, 0, 0) := by decide

/-- The host's turn and the step, from reset with a word placed: 6A2B runs as the first instruction. -/
theorem test_first_instruction :
    ∃ t, step (State.reset.withFetchWord 16 0x6A2B) = .next t ∧ t.reg 0xA = 0x2B ∧ t.pc = 0x0202 :=
  ⟨_, rfl, by decide, by decide⟩

/-! ## Witnesses: every statement's hypotheses can be met -/

/-- The opcode's word selects its row (the hypothesis of `Encodes`). -/
def selects (op mask pattern : Word) : Bool := op &&& mask == pattern

/-- The `Encodes` hypotheses of all statements, on the words of the decode tests above, and at both ends of an operand. -/
theorem witness_Encodes :
    (selects 0x00EE#16 0xFFFF#16 0x00EE#16 && selects 0x00E0#16 0xFFFF#16 0x00E0#16 && selects 0x1ABC#16 0xF000#16 0x1000#16 &&
     selects 0x220A#16 0xF000#16 0x2000#16 && selects 0xBFFF#16 0xF000#16 0xB000#16 && selects 0x3F01#16 0xF000#16 0x3000#16 &&
     selects 0x4211#16 0xF000#16 0x4000#16 && selects 0x5120#16 0xF00F#16 0x5000#16 && selects 0x9120#16 0xF00F#16 0x9000#16 &&
     selects 0x6A2B#16 0xF000#16 0x6000#16 && selects 0x7310#16 0xF000#16 0x7000#16 && selects 0xAFFF#16 0xF000#16 0xA000#16 &&
     selects 0xC50F#16 0xF000#16 0xC000#16 && selects 0xD000#16 0xF000#16 0xD000#16 && selects 0xDFFF#16 0xF000#16 0xD000#16) = true ∧
    (selects 0x8350#16 0xF00F#16 0x8000#16 && selects 0x8351#16 0xF00F#16 0x8001#16 && selects 0x8352#16 0xF00F#16 0x8002#16 &&
     selects 0x8AB3#16 0xF00F#16 0x8003#16 && selects 0x8354#16 0xF00F#16 0x8004#16 && selects 0x8355#16 0xF00F#16 0x8005#16 &&
     selects 0x82A6#16 0xF00F#16 0x8006#16 && selects 0x8357#16 0xF00F#16 0x8007#16 && selects 0x8ABE#16 0xF00F#16 0x800E#16) = true ∧
    (selects 0xE19E#16 0xF0FF#16 0xE09E#16 && selects 0xE3A1#16 0xF0FF#16 0xE0A1#16 && selects 0xF407#16 0xF0FF#16 0xF007#16 &&
     selects 0xFF0A#16 0xF0FF#16 0xF00A#16 && selects 0xF415#16 0xF0FF#16 0xF015#16 && selects 0xF418#16 0xF0FF#16 0xF018#16 &&
     selects 0xF31E#16 0xF0FF#16 0xF01E#16 && selects 0xF129#16 0xF0FF#16 0xF029#16 && selects 0xF033#16 0xF0FF#16 0xF033#16 &&
     selects 0xF555#16 0xF0FF#16 0xF055#16 && selects 0xF265#16 0xF0FF#16 0xF065#16) = true := by decide

theorem witness_DecodeOfEncode : (Instr.sys 0x0E1#12).WellFormed ∧ (Instr.loadRegs 0xF#4).WellFormed := by decide

theorem witness_EncodeOfDecode :
    decodeWord 0x0FFF#16 = some (.sys 0xFFF#12) ∧ decodeWord 0x00E1#16 = some (.sys 0x0E1#12) ∧
    decodeWord 0x00EE#16 = some .ret := by decide

/-- One word of each clause of the list, and that the words meet it. -/
theorem witness_UnrecognizedOpcodesAreTheListed :
    (Word.n0 0x5121#16 = 0x5#4 ∧ Word.n3 0x5121#16 ≠ 0x0#4) ∧
    (Word.n0 0x8AB8#16 = 0x8#4 ∧ Word.n3 0x8AB8#16 ∈ [0x8#4, 0x9#4, 0xA#4, 0xB#4, 0xC#4, 0xD#4, 0xF#4]) ∧
    (Word.n0 0x9AB1#16 = 0x9#4 ∧ Word.n3 0x9AB1#16 ≠ 0x0#4) ∧
    (Word.n0 0xE19F#16 = 0xE#4 ∧ Word.nn 0xE19F#16 ∉ [0x9E#8, 0xA1#8]) ∧
    (Word.n0 0xF375#16 = 0xF#4 ∧
      Word.nn 0xF375#16 ∉ [0x07#8, 0x0A#8, 0x15#8, 0x18#8, 0x1E#8, 0x29#8, 0x33#8, 0x55#8, 0x65#8]) := by decide

/-- Both ends of the stack: one slot occupied and sixteen. -/
theorem witness_RetResumesAfterTheCall :
    ({ State.reset with sp := 1 } : State).sp.val = (0 : Fin 16).val + 1 ∧
    ({ State.reset with sp := 16 } : State).sp.val = (15 : Fin 16).val + 1 := by decide

theorem witness_RetOnEmptyStackFaults : State.reset.sp.val = 0 := by decide

/-- A word on each side of both excluded words. -/
theorem witness_SysOnlyAdvances :
    [0x0000#16, 0x00DF#16, 0x00E1#16, 0x00ED#16, 0x00EF#16, 0x0FFF#16].all
      (fun op => op &&& 0xF000#16 == 0x0000#16 && op != 0x00E0#16 && op != 0x00EE#16) = true := by decide

/-- The jump to 0xFFF, and a jump to its own address. -/
theorem witness_JpSetsPc : (0xFFF#12 : Addr) = 0xFFF#12 ∧ State.reset.pc.toNat = (0x200#12 : Addr).toNat := by decide

/-- V0 = 0 with pc at both ends of the range of the last clause. -/
theorem witness_SkipOnImmediate :
    State.reset.reg 0 = 0 ∧ (0x0FFB#16 ≤ ({ State.reset with pc := 0x0FFB#16 } : State).pc) ∧
    (({ State.reset with pc := 0x0FFE#16 } : State).pc ≤ 0x0FFE#16) := by decide

theorem witness_SkipOnRegisters :
    (Word.n0 0x5121#16 = 0x5#4 ∧ Word.n3 0x5121#16 ≠ 0x0#4) ∧ (Word.n0 0x9AB1#16 = 0x9#4 ∧ Word.n3 0x9AB1#16 ≠ 0x0#4) := by decide

/-- The first free slot and the last; of the other slots the statement speaks of, slot 1 is one. -/
theorem witness_CallPushesItsAddress :
    State.reset.sp.val = (0 : Fin 16).val ∧ ({ State.reset with sp := 15 } : State).sp.val = (15 : Fin 16).val ∧
    (1 : Fin 16) ≠ 0 := by decide

theorem witness_CallOnFullStackFaults : ({ State.reset with sp := 16 } : State).sp.val = 16 := by decide

/-- A call from the last free slot, and a state with its stack and sp. -/
theorem witness_CallThenRetPairs :
    let s : State := { State.reset with sp := 15 }
    s.sp.val < 16 ∧ ∃ t u : State, exec (.call 0x400#12) s = .next t ∧ u.reg 0 = 7 ∧ u.stack = t.stack ∧ u.sp = t.sp := by
  refine ⟨by decide, _, ({ State.reset with sp := 15 } : State).push 0x0200#16 (by decide) |>.setReg 0 7, rfl, ?_, ?_, ?_⟩ <;> decide

/-- Each clause of the flag-producing instructions: a destination that is not VF, and VF itself. -/
theorem witness_AddRegistersWithCarry : (0#4 : RegId) ≠ 0xF#4 ∧ (0xE#4 : RegId) ∉ [0#4, 0xF#4] := by decide

/-- As above. -/
theorem witness_SubtractWithBorrow : (0xE#4 : RegId) ≠ 0xF#4 ∧ (0#4 : RegId) ∉ [0xE#4, 0xF#4] := by decide

/-- As above. -/
theorem witness_SubtractReversed : (1#4 : RegId) ≠ 0xF#4 ∧ (0#4 : RegId) ∉ [1#4, 0xF#4] := by decide

/-- As above. -/
theorem witness_ShiftRightEvictsLow : (2#4 : RegId) ≠ 0xF#4 ∧ (3#4 : RegId) ∉ [2#4, 0xF#4] := by decide

/-- As above. -/
theorem witness_ShiftLeftEvictsHigh : (2#4 : RegId) ≠ 0xF#4 ∧ (3#4 : RegId) ∉ [2#4, 0xF#4] := by decide

/-- For `D012` at (62, 31): row 1, column 7 is the pixel 5; pixel 6 is outside the sprite; and no pixel is inside for n = 0. -/
theorem witness_DrawTogglesTheSprite :
    let s := sprite [(0, 0x3E), (1, 0x1F)]
    ((1 < (2#4).toNat ∧ 7 < 8) ∧ (5 : Fin 2048).val = ((s.reg 1).toNat + 1) % 32 * 64 + ((s.reg 0).toNat + 7) % 64) ∧
    (∀ r < (2#4).toNat, ∀ c < 8, (6 : Fin 2048).val ≠ ((s.reg 1).toNat + r) % 32 * 64 + ((s.reg 0).toNat + c) % 64) ∧
    (∀ r < (0#4).toNat, ∀ c < 8, (5 : Fin 2048).val ≠ ((s.reg 1).toNat + r) % 32 * 64 + ((s.reg 0).toNat + c) % 64) := by decide

theorem witness_DoubleDrawRestoresTheScreen : (0#4 : RegId) ≠ 0xF#4 ∧ (0xE#4 : RegId) ≠ 0xF#4 := by decide

/-- A key event, the last key, and none. -/
theorem witness_WaitForKey :
    ({ State.reset with keyEvent := some 0xF#4 } : State).keyEvent = some 0xF#4 ∧ State.reset.keyEvent = none := by decide

/-- A machine that waits at `F30A`. -/
def waiting : State :=
  { State.reset with opcode := 0xF30A#16, ram := [(0x200, 0xF3#8), (0x201, 0x0A#8)], runState := .awaitingKey }

theorem witness_AwaitingStepWaitsAgain : waiting.Inv ∧ waiting.runState = .awaitingKey :=
  ⟨⟨by decide, by decide, by decide, by decide, by decide, by decide⟩, rfl⟩

/-- The state after `FX15` is not Halted where the state before is not. -/
theorem witness_SetDelayTimer :
    ∃ t, exec (.ldDtVx 4#4) (withRegs [(4, 0xFF)]) = .next t ∧ t.runState ≠ .halted := ⟨_, rfl, by decide⟩

theorem witness_TickCountsDown :
    State.reset.runState ≠ .halted ∧ ({ State.reset with DT := 5, runState := .halted } : State).runState = .halted := by decide

/-- A memory in canonical form, an address outside the three bytes, and a block that wraps. -/
theorem witness_StoreDecimalDigits :
    let s : State := { State.reset with I := 0x0FFE#16, ram := [(0x300, 1#8)] }
    s.ram.wf = true ∧ (0x001#12 ≠ s.ea 0 ∧ 0x001#12 ≠ s.ea 1 ∧ 0x001#12 ≠ s.ea 2) ∧ s.ea 2 = 0x000#12 := by decide

/-- The last register of a block, the whole file, and an address outside a block. -/
theorem witness_StoreRegisterBlock :
    let s : State := { State.reset with I := 0x0400#16 }
    s.ram.wf = true ∧ ((2#4 : RegId).toNat ≤ (2#4 : RegId).toNat ∧ (0xF#4 : RegId).toNat ≤ (0xF#4 : RegId).toNat) ∧
    (∀ k ≤ (2#4 : RegId).toNat, 0x403#12 ≠ s.ea k) := by decide

/-- A register inside the block, and the first above it. -/
theorem witness_LoadRegisterBlock :
    (2#4 : RegId).toNat ≤ (2#4 : RegId).toNat ∧ (2#4 : RegId).toNat < (3#4 : RegId).toNat := by decide

/-- The registers hold something else before the load: `u` has the stored memory, the same I, and V0 = 7. -/
theorem witness_StoreThenLoadRestores :
    State.reset.ram.wf = true ∧ (5#4 : RegId).toNat ≤ (5#4 : RegId).toNat ∧
    ∃ t u : State, exec (.storeRegs 5#4) State.reset = .next t ∧ u.reg 0 = 7 ∧ u.ram = t.ram ∧ u.I = State.reset.I := by
  refine ⟨by decide, by decide, _, { (State.reset.storeBlock 6) with V := (State.reset.setReg 0 7).V }, rfl, ?_, rfl, ?_⟩
  · decide
  · rfl

/-- 95_test_vectors.md 2.9, last row: pc = 0200, I = 0202, `F155`: both bytes of the next word are stored. With I = 0203 `FX33` stores
its second byte alone. -/
theorem witness_StoredWordIsFetchedNext :
    (let s : State := { withRegs [(0, 0x12)] with I := 0x0202#16 }
     s.ram.wf = true ∧ ∃ t u : State, exec (.storeRegs 1#4) s = .next t ∧ u.ram = t.ram ∧
       s.ea 0 = BitVec.ofNat 12 u.pc.toNat ∧ s.ea 1 = BitVec.ofNat 12 (u.pc.toNat + 1)) ∧
    (let s : State := { withRegs [(0, 0xFE)] with I := 0x0203#16 }
     s.ram.wf = true ∧ ∃ t u : State, exec (.ldB 0#4) s = .next t ∧ u.ram = t.ram ∧
       (∀ k < 3, s.ea k ≠ BitVec.ofNat 12 u.pc.toNat) ∧ s.ea 0 = BitVec.ofNat 12 (u.pc.toNat + 1)) :=
  ⟨⟨by decide, _, _, rfl, rfl, by decide, by decide⟩, ⟨by decide, _, _, rfl, rfl, by decide, by decide⟩⟩

/-- The word `6A2B` at the last address a fetch may have. -/
theorem witness_StepRunsTheDecodedInstruction :
    let s : State := { State.reset with pc := 0x0FFE#16, ram := [(0xFFE, 0x6A#8), (0xFFF, 0x2B#8)] }
    s.runState ≠ .halted ∧ s.pc ≤ 0x0FFE#16 ∧
    decode [s.readByte (BitVec.ofNat 12 s.pc.toNat), s.readByte (BitVec.ofNat 12 (s.pc.toNat + 1))] =
      .ok (.ldImm 0xA#4 0x2B#8, []) := by decide

theorem witness_UnrecognizedOnlyAdvances :
    let s : State := { State.reset with ram := [(0x200, 0x5A#8), (0x201, 0xB1#8)] }
    s.runState ≠ .halted ∧ s.pc ≤ 0x0FFE#16 ∧ decodeWord s.fetchWord = none := by decide

/-- The first pc past the bound. -/
theorem witness_FetchPastMemoryFaults :
    let s : State := { State.reset with pc := 0x0FFF#16 }
    s.runState ≠ .halted ∧ 0x0FFE#16 < s.pc := by decide

/-- A Halted state; each operation but `new` is one the statement speaks of. -/
theorem witness_HaltedIsFrozen :
    let s : State := { State.reset with runState := .halted, fault := .stackOverflow }
    s.runState = .halted ∧ HostOp.step quiet ≠ .new ∧ HostOp.loadRom [0x12] ≠ .new ∧ HostOp.tickTimers ≠ .new := by decide

theorem witness_HaltedRunChangesNothing : ({ State.reset with runState := .halted } : State).runState = .halted := by decide

/-- Byte 79 is the last of the font, byte 80 the first after it. -/
theorem witness_NewResetsEverything :
    (0x04F#12 : Addr).toNat = (79 : Fin 80).val ∧ 80 ≤ (0x050#12 : Addr).toNat := by decide

/-- 95_test_vectors.md S13: 3584 bytes and 3585; the first and last bytes of a ROM, and the addresses beside a short one. -/
theorem witness_LoadRomCopiesOrFaults :
    (State.reset.runState ≠ .halted ∧ State.reset.ram.wf = true) ∧
    ((List.replicate 3584 (7#8 : Byte)).length ≤ 3584 ∧ 3584 < (List.replicate 3585 (7#8 : Byte)).length) ∧
    ((0xFFF#12 : Addr).toNat = 0x200 + 3583 ∧ (0x200#12 : Addr).toNat = 0x200 + (0 : Fin 2).val) ∧
    ((0x1FF#12 : Addr).toNat < 0x200 ∧ 0x200 + [(0x12 : Byte), 0x00].length ≤ (0x202#12 : Addr).toNat) := by
  refine ⟨by decide, ?_, by decide, by decide⟩
  simp only [List.length_replicate]
  decide

/-- `1200` at 0200, and a self-jump at the last address a fetch may have. -/
theorem witness_SelfJumpStays :
    (let s : State := { State.reset with ram := [(0x200, 0x12#8)] }
     s.runState ≠ .halted ∧ s.pc ≤ 0x0FFE#16 ∧ s.fetchWord = 0x1000#16 ||| s.pc) ∧
    (let s : State := { State.reset with pc := 0x0FFE#16, ram := [(0xFFE, 0x1F#8), (0xFFF, 0xFE#8)] }
     s.runState ≠ .halted ∧ s.pc ≤ 0x0FFE#16 ∧ s.fetchWord = 0x1000#16 ||| s.pc) := by decide

/-- A store that changes a byte, and a clear that changes a pixel. -/
theorem witness_OnlyStoresWriteMemory :
    (∃ t, exec (.storeRegs 0#4) { withRegs [(0, 0x11)] with I := 0x0400#16 } = .next t ∧
      t.readByte 0x400#12 ≠ ({ withRegs [(0, 0x11)] with I := 0x0400#16 } : State).readByte 0x400#12) ∧
    (∃ t, exec .cls { State.reset with screen := pixelZeroLit } = .next t ∧
      Screen.get t.screen 0 ≠ Screen.get pixelZeroLit 0) :=
  ⟨⟨_, rfl, by decide⟩, ⟨_, rfl, by decide⟩⟩

/-- One instruction that writes each of stack and sp, I, DT and ST. -/
theorem witness_SpecialRegistersHaveTheirWriters :
    (∃ t, exec (.call 0x400#12) State.reset = .next t ∧ t.stack ≠ State.reset.stack ∧ t.sp ≠ State.reset.sp) ∧
    (∃ t, exec (.ldI 0x400#12) State.reset = .next t ∧ t.I ≠ State.reset.I) ∧
    (∃ t, exec (.ldDtVx 0#4) (withRegs [(0, 7)]) = .next t ∧ t.DT ≠ (withRegs [(0, 7)]).DT) ∧
    (∃ t, exec (.ldStVx 0#4) (withRegs [(0, 7)]) = .next t ∧ t.ST ≠ (withRegs [(0, 7)]).ST) :=
  ⟨⟨_, rfl, by decide, by decide⟩, ⟨_, rfl, by decide⟩, ⟨_, rfl, by decide⟩, ⟨_, rfl, by decide⟩⟩

/-- `FX65` changes a register below Vx. -/
theorem witness_OnlyNamedRegistersChange :
    ∃ t, exec (.loadRegs 2#4) { State.reset with I := 0x0400#16, ram := [(0x400, 0x11#8)] } = .next t ∧
      t.reg 0 ≠ ({ State.reset with I := 0x0400#16, ram := [(0x400, 0x11#8)] } : State).reg 0 := ⟨_, rfl, by decide⟩

/-- One transition of each case. -/
theorem witness_RunStateTransitions :
    (∃ t, exec (.jp 0x200#12) State.reset = .next t ∧ t.runState = .running) ∧
    (∃ t, exec (.ldVxK 0#4) State.reset = .next t ∧ t.runState = .awaitingKey) ∧
    (∃ t, exec .ret State.reset = .next t ∧ t.fault = .stackUnderflow) ∧
    (∃ t, exec (.call 0x200#12) { State.reset with sp := 16 } = .next t ∧ t.fault = .stackOverflow) :=
  ⟨⟨_, rfl, rfl⟩, ⟨_, rfl, rfl⟩, ⟨_, rfl, rfl⟩, ⟨_, rfl, rfl⟩⟩

/-- `CXNN` reads `rnd` alone: other keys and another key event meet all four hypotheses. -/
theorem witness_UnreadInputsDoNotMatter :
    let inp : StepInputs := { keys := 0xFFFF, keyEvent := some 3, rnd := State.reset.rnd }
    (readsKeys (.rnd 5#4 0x0F#8) → inp.keys = State.reset.keys) ∧
    (readsKeyEvent (.rnd 5#4 0x0F#8) → inp.keyEvent = State.reset.keyEvent) ∧
    (readsRnd (.rnd 5#4 0x0F#8) → inp.rnd = State.reset.rnd) ∧
    ∃ t, exec (.rnd 5#4 0x0F#8) State.reset = .next t :=
  ⟨by simp [readsKeys], by simp [readsKeyEvent], fun _ => rfl, _, rfl⟩

/-- A running machine whose pc is the highest a jump can leave (R23). -/
def farPc : State := { State.reset with pc := 0x10FE#16, I := 0x0FFF#16, sp := 1 }

theorem farPc_inv : farPc.Inv := ⟨by decide, by decide, by decide, by decide, by decide, by decide⟩

/-- A waiting machine has a next state, and so has one that can fetch nothing. -/
theorem witness_StepKeepsTheInvariant :
    (∃ t, waiting.Inv ∧ step waiting = .next t) ∧ (∃ t, farPc.Inv ∧ step farPc = .next t) :=
  ⟨⟨_, witness_AwaitingStepWaitsAgain.1, rfl⟩, ⟨_, farPc_inv, rfl⟩⟩

/-- A ROM loaded over a running machine, and a step of a waiting one. -/
theorem witness_OperationsKeepTheInvariant :
    (farPc.Inv ∧ farPc.runState ≠ .awaitingKey ∧ ∃ t, (HostOp.loadRom [0x12, 0x00]).apply farPc = .next t) ∧
    (waiting.Inv ∧ (∀ data, HostOp.step quiet = .loadRom data → waiting.runState ≠ .awaitingKey) ∧
      ∃ t, (HostOp.step quiet).apply waiting = .next t) :=
  ⟨⟨farPc_inv, by decide, _, rfl⟩, ⟨witness_AwaitingStepWaitsAgain.1, fun _ h => (by cases h), _, rfl⟩⟩

end Sys2Proof.Tests
end

section
/-! SUPPORT. What an operation leaves unchanged: one frame rule per operation on the state, and from them the footprint of every
instruction. -/

namespace Sys2Proof.Machine

/-! ### Completed outcomes -/

theorem completes_next {t : State} {P : State → Prop} (h : P t) : Completes (.next t) P := ⟨t, rfl, h⟩

theorem Completes.imp {o : Outcome} {P Q : State → Prop} (h : Completes o P) (hPQ : ∀ t, P t → Q t) : Completes o Q := by
  obtain ⟨t, ht, hP⟩ := h
  exact ⟨t, ht, hPQ t hP⟩

/-- The next state is unique, so what some next state meets, the answered one meets. -/
theorem Completes.of_next {o : Outcome} {P : State → Prop} {t : State} (h : Completes o P) (ht : o = .next t) : P t := by
  obtain ⟨u, hu, hP⟩ := h
  cases hu.symm.trans ht
  exact hP

/-! ### Frames -/

theorem Agree.trans {e : Elem} {s t u : State} (h₁ : Agree e s t) (h₂ : Agree e t u) : Agree e s u := by
  cases e with
  | V | screen | ram => exact fun a => (h₂ a).trans (h₁ a)
  | inputs =>
    obtain ⟨hk, he, hr, ht⟩ := h₁
    obtain ⟨hk', he', hr', ht'⟩ := h₂
    exact ⟨hk'.trans hk, he'.trans he, hr'.trans hr, ht'.trans ht⟩
  | _ => exact Eq.trans h₂ h₁

/-- Frames compose: two operations together change at most what either changes. -/
theorem UnchangedExcept.trans {xs ys : List Elem} {s t u : State} (h₁ : UnchangedExcept xs s t)
    (h₂ : UnchangedExcept ys t u) : UnchangedExcept (xs ++ ys) s u := by
  intro e he
  rw [List.mem_append, not_or] at he
  exact (h₁ e he.1).trans (h₂ e he.2)

theorem UnchangedExcept.mono {xs ys : List Elem} {s t : State} (h : UnchangedExcept xs s t) (hsub : xs ⊆ ys) :
    UnchangedExcept ys s t := fun e he => h e fun hx => he (hsub hx)

/-- An element that differs is one of those the frame lists. -/
theorem UnchangedExcept.mem_of_changed {xs : List Elem} {s t : State} {e : Elem} (h : UnchangedExcept xs s t)
    (hne : ¬ Agree e s t) : e ∈ xs := by_contra fun hx => hne (h e hx)

section
variable (s : State)

theorem setReg_frame (x : RegId) (v : Byte) : UnchangedExcept [.V] s (s.setReg x v) := by
  intro e he
  cases e <;> simp [Agree] at he ⊢

theorem setPc_frame (v : Word) : UnchangedExcept [.pc] s (s.setPc v) := by
  intro e he
  cases e <;> simp [Agree] at he ⊢

theorem setI_frame (v : Word) : UnchangedExcept [.I] s (s.setI v) := by
  intro e he
  cases e <;> simp [Agree] at he ⊢

theorem setDT_frame (v : Byte) : UnchangedExcept [.DT] s (s.setDT v) := by
  intro e he
  cases e <;> simp [Agree] at he ⊢

theorem setST_frame (v : Byte) : UnchangedExcept [.ST] s (s.setST v) := by
  intro e he
  cases e <;> simp [Agree] at he ⊢

theorem setScreen_frame (v : Screen) : UnchangedExcept [.screen] s (s.setScreen v) := by
  intro e he
  cases e <;> simp [Agree] at he ⊢

theorem setRunState_frame (v : RunState) : UnchangedExcept [.runState] s (s.setRunState v) := by
  intro e he
  cases e <;> simp [Agree] at he ⊢

theorem push_frame (v : Word) (h : s.sp.val < 16) : UnchangedExcept [.stack, .sp] s (s.push v h) := by
  intro e he
  cases e <;> simp [Agree] at he ⊢

theorem pop_frame (h : 0 < s.sp.val) : UnchangedExcept [.sp] s (s.pop h) := by
  intro e he
  cases e <;> simp [Agree] at he ⊢

theorem writeByte_frame (a : Addr) (v : Byte) : UnchangedExcept [.ram] s (s.writeByte a v) := by
  intro e he
  cases e <;> simp [Agree] at he ⊢

theorem complete_frame (o : StepOutcome) (d : Bool) : UnchangedExcept [.pc] s (s.complete o d) := by
  intro e he
  cases e <;> simp [Agree] at he ⊢

theorem raise_frame (f : FaultCode) : UnchangedExcept [.runState, .fault] s (s.raise f) := by
  intro e he
  cases e <;> simp [Agree] at he ⊢

theorem storeBlock_frame (n : Nat) : UnchangedExcept [.ram] s (s.storeBlock n) := by
  intro e he
  cases e <;> simp [Agree] at he ⊢

theorem loadBlock_frame (n : Nat) : UnchangedExcept [.V] s (s.loadBlock n) := by
  intro e he
  cases e <;> simp [Agree] at he ⊢

end

/-! ### The instructions that test the state before they write, case by case -/

section
variable (s : State)

theorem exec_ret_of_pos (h : 0 < s.sp.val) : exec .ret s = .next (((s.pop h).setPc (s.top h)).complete .advanced) := by
  simp [exec, execRet, h]

theorem exec_ret_of_empty (h : s.sp.val = 0) : exec .ret s = .next (s.raise .stackUnderflow) := by
  simp [exec, execRet, h]

theorem exec_call_of_free (nnn : Addr) (h : s.sp.val < 16) :
    exec (.call nnn) s = .next (((s.push s.pc h).setPc (zext16 nnn)).complete .jumped) := by
  simp [exec, execCall, h]

theorem exec_call_of_full (nnn : Addr) (h : s.sp.val = 16) : exec (.call nnn) s = .next (s.raise .stackOverflow) := by
  simp [exec, execCall, h]

theorem exec_ldVxK_of_none (x : RegId) (h : s.keyEvent = none) :
    exec (.ldVxK x) s = .next ((s.setRunState .awaitingKey).complete .waiting) := by
  simp [exec, execLdVxK, h]

theorem exec_ldVxK_of_some (x : RegId) (k : Key) (h : s.keyEvent = some k) :
    exec (.ldVxK x) s = .next (((s.setReg x (k.setWidth 8)).setRunState .running).complete .advanced) := by
  simp [exec, execLdVxK, h]

variable {s} {P : State → Prop}

/-- What the fault and the return both reach, `00EE` reaches. -/
theorem exec_ret_cases (hfault : s.sp.val = 0 → P (s.raise .stackUnderflow))
    (hpop : ∀ h : 0 < s.sp.val, P (((s.pop h).setPc (s.top h)).complete .advanced)) : Completes (exec .ret s) P := by
  rcases Nat.eq_zero_or_pos s.sp.val with h | h
  · exact ⟨_, exec_ret_of_empty s h, hfault h⟩
  · exact ⟨_, exec_ret_of_pos s h, hpop h⟩

/-- What the fault and the call both reach, `2NNN` reaches. -/
theorem exec_call_cases {nnn : Addr} (hfault : s.sp.val = 16 → P (s.raise .stackOverflow))
    (hpush : ∀ h : s.sp.val < 16, P (((s.push s.pc h).setPc (zext16 nnn)).complete .jumped)) :
    Completes (exec (.call nnn) s) P := by
  rcases Nat.lt_or_eq_of_le (Nat.le_of_lt_succ s.sp.isLt) with h | h
  · exact ⟨_, exec_call_of_free s nnn h, hpush h⟩
  · exact ⟨_, exec_call_of_full s nnn h, hfault h⟩

/-- What the wait and the completion both reach, `FX0A` reaches. -/
theorem exec_ldVxK_cases {x : RegId}
    (hwait : s.keyEvent = none → P ((s.setRunState .awaitingKey).complete .waiting))
    (hkey : ∀ k, s.keyEvent = some k → P (((s.setReg x (k.setWidth 8)).setRunState .running).complete .advanced)) :
    Completes (exec (.ldVxK x) s) P := by
  cases h : s.keyEvent with
  | none => exact ⟨_, exec_ldVxK_of_none s x h, hwait h⟩
  | some k => exact ⟨_, exec_ldVxK_of_some s x k h, hkey k h⟩

end

/-! ### The footprint of an instruction -/

/-- The elements of the state an instruction may change. -/
def footprint : Instr → List Elem
  | .cls => [.screen, .pc]
  | .ret => [.sp, .pc, .runState, .fault]
  | .call _ => [.stack, .sp, .pc, .runState, .fault]
  | .ldImm _ _ | .addImm _ _ | .rnd _ _ | .ldVxDt _ => [.V, .pc]
  | .ldReg _ _ | .orReg _ _ | .andReg _ _ | .xorReg _ _ => [.V, .pc]
  | .addReg _ _ | .subReg _ _ | .shr _ _ | .subn _ _ | .shl _ _ => [.V, .pc]
  | .drw _ _ _ => [.screen, .V, .pc]
  | .ldI _ | .addI _ | .ldF _ => [.I, .pc]
  | .ldVxK _ => [.V, .runState, .pc]
  | .ldDtVx _ => [.DT, .pc]
  | .ldStVx _ => [.ST, .pc]
  | .ldB _ => [.ram, .pc]
  | .storeRegs _ => [.ram, .I, .pc]
  | .loadRegs _ => [.V, .I, .pc]
  | .sys _ | .jp _ | .jpV0 _ | .seImm _ _ | .sneImm _ _ | .seReg _ _ | .sneReg _ _ | .skp _ | .sknp _ => [.pc]

theorem finishAlu_frame (s : State) (x : RegId) (v : Byte) (b : Bool) : UnchangedExcept [.V, .pc] s (s.finishAlu x v b) :=
  (((setReg_frame s x v).trans (setReg_frame _ regF (flagByte b))).trans (complete_frame _ .advanced false)).mono (by simp)

theorem exec_ret_frame (s : State) : Completes (exec .ret s) (UnchangedExcept [.sp, .pc, .runState, .fault] s) :=
  exec_ret_cases
    (fun _ => (raise_frame s _).mono (by simp))
    (fun h => (((pop_frame s h).trans (setPc_frame _ _)).trans (complete_frame _ _ _)).mono (by simp))

theorem exec_call_frame (nnn : Addr) (s : State) :
    Completes (exec (.call nnn) s) (UnchangedExcept [.stack, .sp, .pc, .runState, .fault] s) :=
  exec_call_cases
    (fun _ => (raise_frame s _).mono (by simp))
    (fun h => (((push_frame s _ h).trans (setPc_frame _ _)).trans (complete_frame _ _ _)).mono (by simp))

theorem exec_ldVxK_frame (x : RegId) (s : State) :
    Completes (exec (.ldVxK x) s) (UnchangedExcept [.V, .runState, .pc] s) :=
  exec_ldVxK_cases
    (fun _ => ((setRunState_frame s _).trans (complete_frame _ _ _)).mono (by simp))
    (fun _ _ => ((setReg_frame s x _).trans (setRunState_frame _ _)).trans (complete_frame _ _ _))

/-- Every instruction goes on to a next state and changes nothing outside its footprint. -/
theorem exec_frame (i : Instr) (s : State) : Completes (exec i s) (UnchangedExcept (footprint i) s) := by
  cases i with
  | cls => exact completes_next ((setScreen_frame s _).trans (complete_frame _ _ _))
  | ret => exact exec_ret_frame s
  | call nnn => exact exec_call_frame nnn s
  | sys | seImm | sneImm | seReg | sneReg | skp | sknp => exact completes_next (complete_frame s _ _)
  | jp | jpV0 => exact completes_next (((setPc_frame s _).trans (complete_frame _ _ _)).mono (by simp [footprint]))
  | ldImm | addImm | rnd | ldVxDt | ldReg | orReg | andReg | xorReg =>
    exact completes_next ((setReg_frame s _ _).trans (complete_frame _ _ _))
  | addReg | subReg | shr | subn | shl => exact completes_next (finishAlu_frame s _ _ _)
  | drw =>
    exact completes_next (((setScreen_frame s _).trans (setReg_frame _ regF _)).trans (complete_frame _ _ _))
  | ldI | addI | ldF => exact completes_next ((setI_frame s _).trans (complete_frame _ _ _))
  | ldVxK x => exact exec_ldVxK_frame x s
  | ldDtVx => exact completes_next ((setDT_frame s _).trans (complete_frame _ _ _))
  | ldStVx => exact completes_next ((setST_frame s _).trans (complete_frame _ _ _))
  | ldB =>
    exact completes_next (((((writeByte_frame s _ _).trans (writeByte_frame _ _ _)).trans (writeByte_frame _ _ _)).trans
      (complete_frame _ _ _)).mono (by simp [footprint]))
  | storeRegs => exact completes_next (((storeBlock_frame s _).trans (setI_frame _ _)).trans (complete_frame _ _ _))
  | loadRegs => exact completes_next (((loadBlock_frame s _).trans (setI_frame _ _)).trans (complete_frame _ _ _))

end Sys2Proof.Machine
end

section
/-! SUPPORT. Rules over all instructions (spec/10_state.md R20 to R30): who writes which register. -/

namespace Sys2Proof.Machine

/-! ### Which footprints hold an element -/

theorem call_of_stack_mem {i : Instr} (h : .stack ∈ footprint i) : ∃ nnn, i = .call nnn := by
  cases i <;> simp [footprint] at h ⊢

theorem ret_or_call_of_sp_mem {i : Instr} (h : .sp ∈ footprint i) : i = .ret ∨ ∃ nnn, i = .call nnn := by
  cases i <;> simp [footprint] at h ⊢

theorem index_writer_of_I_mem {i : Instr} (h : .I ∈ footprint i) :
    (∃ nnn, i = .ldI nnn) ∨ ∃ x, i = .addI x ∨ i = .ldF x ∨ i = .storeRegs x ∨ i = .loadRegs x := by
  cases i <;> simp [footprint] at h ⊢

theorem ldDtVx_of_DT_mem {i : Instr} (h : .DT ∈ footprint i) : ∃ x, i = .ldDtVx x := by
  cases i <;> simp [footprint] at h ⊢

theorem ldStVx_of_ST_mem {i : Instr} (h : .ST ∈ footprint i) : ∃ x, i = .ldStVx x := by
  cases i <;> simp [footprint] at h ⊢

theorem opcode_not_mem_footprint (i : Instr) : .opcode ∉ footprint i := by cases i <;> simp [footprint]

theorem inputs_not_mem_footprint (i : Instr) : .inputs ∉ footprint i := by cases i <;> simp [footprint]

/-- Settles O52: an element that differs lies in the footprint, and each footprint names its writers. -/
theorem specialRegistersHaveTheirWriters : Obligations.SpecialRegistersHaveTheirWriters := by
  intro i s t h
  have hf : UnchangedExcept (footprint i) s t := (exec_frame i s).of_next h
  refine ⟨fun hne => ?_, fun hne => ?_, fun hne => ?_, fun hne => ?_, fun hne => ?_, ?_, ?_⟩
  · exact call_of_stack_mem (hf.mem_of_changed hne)
  · exact ret_or_call_of_sp_mem (hf.mem_of_changed hne)
  · exact index_writer_of_I_mem (hf.mem_of_changed hne)
  · exact ldDtVx_of_DT_mem (hf.mem_of_changed hne)
  · exact ldStVx_of_ST_mem (hf.mem_of_changed hne)
  · exact hf .opcode (opcode_not_mem_footprint i)
  · exact hf .inputs (inputs_not_mem_footprint i)

/-! ### The general registers -/

theorem reg_finishAlu_ne (s : State) {x r : RegId} (v : Byte) (b : Bool) (hx : r ≠ x) (hF : r ≠ regF) :
    (s.finishAlu x v b).reg r = s.reg r := by
  rw [reg_finishAlu, if_neg hF, if_neg hx]

theorem reg_loadBlock_above (s : State) {x r : RegId} (h : x.toNat < r.toNat) :
    (s.loadBlock (x.toNat + 1)).reg r = s.reg r := by
  rw [reg_loadBlock s _ (regId_lt x), if_neg (by omega)]

/-- An instruction keeps every register it may not write: a destination is written alone, the ALU writes VF too, and the other
instructions have no register in their footprint. -/
theorem exec_reg_of_not_mayWriteReg (i : Instr) (s : State) (r : RegId) (h : mayWriteReg i r = false) :
    Completes (exec i s) fun t => t.reg r = s.reg r := by
  cases i with
  | ldImm x | addImm x | rnd x | ldVxDt x | ldReg x | orReg x | andReg x | xorReg x =>
    exact completes_next (reg_setReg_ne s x r _ (of_decide_eq_false h))
  | addReg x | subReg x | shr x | subn x | shl x =>
    obtain ⟨hx, hF⟩ := Bool.or_eq_false_iff.mp h
    exact completes_next (reg_finishAlu_ne s _ _ (of_decide_eq_false hx) (of_decide_eq_false hF))
  | drw => exact completes_next (reg_setReg_ne _ regF r _ (of_decide_eq_false h))
  | ldVxK => exact exec_ldVxK_cases (fun _ => rfl) (fun _ _ => reg_setReg_ne s _ r _ (of_decide_eq_false h))
  | loadRegs => exact completes_next (reg_loadBlock_above s (Nat.lt_of_not_le (of_decide_eq_false h)))
  | _ => exact (exec_frame _ s).imp fun t hf => hf .V (by simp [footprint]) r

/-- Settles O53, by contraposition: a register the instruction may not write is kept. -/
theorem onlyNamedRegistersChange : Obligations.OnlyNamedRegistersChange := by
  intro i s t r h hne
  by_contra hw
  exact hne ((exec_reg_of_not_mayWriteReg i s r (Bool.eq_false_of_not_eq_true hw)).of_next h)

/-! ### The run status and the fault register -/

theorem exec_ret_runState (s : State) : Completes (exec .ret s) fun t =>
    (t.runState = s.runState ∧ t.fault = s.fault) ∨
    (s.sp.val = 0 ∧ t.runState = .halted ∧ t.fault = .stackUnderflow) :=
  exec_ret_cases (fun h => .inr ⟨h, rfl, rfl⟩) (fun _ => .inl ⟨rfl, rfl⟩)

theorem exec_call_runState (nnn : Addr) (s : State) : Completes (exec (.call nnn) s) fun t =>
    (t.runState = s.runState ∧ t.fault = s.fault) ∨
    (s.sp.val = 16 ∧ t.runState = .halted ∧ t.fault = .stackOverflow) :=
  exec_call_cases (fun h => .inr ⟨h, rfl, rfl⟩) (fun _ => .inl ⟨rfl, rfl⟩)

theorem exec_ldVxK_runState (x : RegId) (s : State) : Completes (exec (.ldVxK x) s) fun t =>
    t.fault = s.fault ∧ t.runState = (if s.keyEvent = none then .awaitingKey else .running) :=
  exec_ldVxK_cases (fun h => ⟨rfl, by simp [h]⟩) (fun k h => ⟨rfl, by simp [h]⟩)

/-- Settles O54: only `00EE`, `2NNN` and `FX0A` have the run status in their footprint. -/
theorem runStateTransitions : Obligations.RunStateTransitions := by
  intro i s t h
  cases i with
  | ret =>
    rcases (exec_ret_runState s).of_next h with hsame | hfault
    · exact .inl hsame
    · exact .inr (.inr (.inl ⟨rfl, hfault⟩))
  | call nnn =>
    rcases (exec_call_runState nnn s).of_next h with hsame | hfault
    · exact .inl hsame
    · exact .inr (.inr (.inr ⟨⟨nnn, rfl⟩, hfault⟩))
  | ldVxK x => exact .inr (.inl ⟨⟨x, rfl⟩, (exec_ldVxK_runState x s).of_next h⟩)
  | _ =>
    have hf := (exec_frame _ s).of_next h
    exact .inl ⟨hf .runState (by simp [footprint]), hf .fault (by simp [footprint])⟩

/-! ### Reset -/

theorem reset_reg (r : RegId) : State.reset.reg r = 0 := Vector.getElem_replicate _

theorem readByte_reset (a : Addr) : State.reset.readByte a = Memory.unlisted a.toNat := rfl

theorem readByte_reset_font (a : Addr) (j : Fin 80) (h : a.toNat = j.val) : State.reset.readByte a = Config.font j := by
  simp [readByte_reset, Memory.unlisted, h]

theorem readByte_reset_above_font (a : Addr) (h : 80 ≤ a.toNat) : State.reset.readByte a = 0 := by
  rw [readByte_reset, Memory.unlisted, dif_neg (Nat.not_lt.mpr h)]

/-- Settles O48: `new` answers the reset state but for the turn counter. -/
theorem newResetsEverything : Obligations.NewResetsEverything := by
  intro s
  exact completes_next ⟨reset_reg, rfl, rfl, fun j => Vector.getElem_replicate _, rfl, rfl, rfl, rfl, Screen.get_dark,
    readByte_reset_font, readByte_reset_above_font, rfl, rfl⟩

end Sys2Proof.Machine
end

section
/-! SUPPORT. The invariant of the reachable states (spec/10_state.md R35) under the steps of the machine and the
operations of its host. -/

namespace Sys2Proof.Machine

/-! ### Opcodes of `FX0A` -/

theorem decodeZero_ne_ldVxK (op : Word) (x : RegId) : decodeZero op ≠ .ldVxK x := by
  unfold decodeZero
  split
  · simp
  · split <;> simp

theorem decodeAlu_ne_ldVxK (x y r : RegId) (n : Nibble) : decodeAlu x y n ≠ some (.ldVxK r) := by
  unfold decodeAlu
  split <;> simp

theorem decodeKey_ne_ldVxK (x r : RegId) (nn : Byte) : decodeKey x nn ≠ some (.ldVxK r) := by
  unfold decodeKey
  split <;> simp

theorem nn_of_decodeMisc_ldVxK {x r : RegId} {nn : Byte} (h : decodeMisc x nn = some (.ldVxK r)) : nn = 0x0A#8 := by
  unfold decodeMisc at h
  split at h
  case h_2 => rfl
  all_goals simp at h

/-- Of the sixteen groups of R83 only the last holds `FX0A`. -/
theorem n0_nn_of_decodeWord_ldVxK {op : Word} {x : RegId} (h : decodeWord op = some (.ldVxK x)) :
    Word.n0 op = 0xF#4 ∧ Word.nn op = 0x0A#8 := by
  unfold decodeWord at h
  split at h
  case h_1 => exact absurd (Option.some.inj h) (decodeZero_ne_ldVxK op x)
  case h_6 | h_10 => split at h <;> simp at h
  case h_9 => exact absurd h (decodeAlu_ne_ldVxK _ _ x _)
  case h_15 => exact absurd h (decodeKey_ne_ldVxK _ x _)
  case h_16 hn0 => exact ⟨hn0, nn_of_decodeMisc_ldVxK h⟩
  all_goals simp at h

/-- The mask of the FX group keeps n0 and nn of an opcode. -/
theorem and_F0FF (op : Word) : op &&& 0xF0FF#16 = (Word.n0 op).setWidth 16 <<< 12 ||| placeNN (Word.nn op) := by
  apply BitVec.eq_of_getLsbD_eq
  intro i hi
  interval_cases i <;> simp [Word.n0, Word.nn, placeNN]

theorem decodeWord_ldVxK_mask {op : Word} {x : RegId} (h : decodeWord op = some (.ldVxK x)) :
    op &&& 0xF0FF#16 = 0xF00A#16 := by
  obtain ⟨hn0, hnn⟩ := n0_nn_of_decodeWord_ldVxK h
  rw [and_F0FF, hn0, hnn]
  rfl

theorem decodeWord_of_ldVxK_mask {op : Word} (h : op &&& 0xF0FF#16 = 0xF00A#16) :
    decodeWord op = some (.ldVxK op.x) := by
  have hn0 : Word.n0 op = 0xF#4 := Word.n0_of_mask op _ _ rfl h
  have hnn : Word.nn op = 0x0A#8 := Word.nn_of_mask op _ _ rfl h
  simp [decodeWord, decodeMisc, hn0, hnn]

/-! ### The invariant under the operations that change no element it speaks of -/

section
variable {s : State}

theorem State.Inv.hostTurn (h : s.Inv) : s.hostTurn.Inv :=
  ⟨h.index_le, h.pc_le, h.live_le, h.fault_iff, h.awaiting, h.ram_wf⟩

theorem State.Inv.present (h : s.Inv) (inp : StepInputs) : (s.present inp).Inv :=
  ⟨h.index_le, h.pc_le, h.live_le, h.fault_iff, h.awaiting, h.ram_wf⟩

theorem State.Inv.refuseStep (h : s.Inv) : s.refuseStep.Inv :=
  ⟨h.index_le, h.pc_le, h.live_le, h.fault_iff, h.awaiting, h.ram_wf⟩

theorem State.Inv.tickTimers (h : s.Inv) : s.tickTimers.Inv := by
  unfold State.tickTimers
  split
  · exact h
  · exact ⟨h.index_le, h.pc_le, h.live_le, h.fault_iff, h.awaiting, h.ram_wf⟩

/-- A waiting machine latches the `FX0A` it holds already; any other has no obligation about `opcode`. -/
theorem State.Inv.latchOpcode (h : s.Inv) : s.latchOpcode.Inv where
  index_le := h.index_le
  pc_le := h.pc_le
  live_le := h.live_le
  fault_iff := h.fault_iff
  awaiting hw := by
    obtain ⟨hmask, hpc, hfetch⟩ := h.awaiting hw
    exact ⟨by rw [latchOpcode_opcode, hfetch, hmask], hpc, rfl⟩
  ram_wf := h.ram_wf

theorem State.Inv.halt (h : s.Inv) {f : FaultCode} (hf : f ≠ .none) : (s.halt f).Inv where
  index_le := h.index_le
  pc_le := h.pc_le
  live_le := h.live_le
  fault_iff := by simp [hf]
  awaiting hw := by simp at hw
  ram_wf := h.ram_wf

theorem State.Inv.raise (h : s.Inv) {f : FaultCode} (hf : f ≠ .none) : (s.raise f).Inv :=
  ⟨h.index_le, h.pc_le, h.live_le, (h.halt hf).fault_iff, (h.halt hf).awaiting, h.ram_wf⟩

end

/-- Settles O57: nothing is fetched, called or awaited yet. -/
theorem resetMeetsTheInvariant : Obligations.ResetMeetsTheInvariant where
  index_le := by decide
  pc_le := by decide
  live_le j hj := absurd hj (Nat.not_lt_zero j.val)
  fault_iff := by decide
  awaiting hw := by cases hw
  ram_wf := reset_ram_wf

theorem inv_new (s : State) : s.new.Inv :=
  have h := resetMeetsTheInvariant
  ⟨h.index_le, h.pc_le, h.live_le, h.fault_iff, h.awaiting, h.ram_wf⟩

/-- A ROM that fits is written inside the address space, and one that does not halts the machine. -/
theorem State.Inv.loadRom {s : State} (h : s.Inv) (hw : s.runState ≠ .awaitingKey) (data : List Byte) :
    (s.loadRom data).1.Inv := by
  unfold State.loadRom
  split
  · exact h
  split
  · exact h.halt (by decide)
  next hlen =>
    have hfits : 0x200 + data.length ≤ 4096 := by unfold romMax at hlen; omega
    exact ⟨h.index_le, h.pc_le, h.live_le, h.fault_iff, fun ha => absurd ha hw, Memory.wf_writeAll _ _ _ h.ram_wf hfits⟩

/-! ### Each part of the invariant under an instruction -/

/-- From a pc where a fetch is possible, no outcome moves pc past 0x10FE (R23). -/
theorem nextPc_le (o : StepOutcome) {pc : Word} (h : pc ≤ 0x0FFE#16) : o.nextPc pc ≤ 0x10FE#16 := by
  cases o <;> simp only [StepOutcome.nextPc] <;> bv_omega

theorem zext16_le_pcMax (nnn : Addr) : zext16 nnn ≤ 0x10FE#16 :=
  BitVec.le_trans (zext16_le nnn) (by decide)

theorem jumpTarget_le (nnn : Addr) (v : Byte) : jumpTarget nnn v ≤ 0x10FE#16 := by
  have := jumpTarget_toNat nnn v
  bv_omega

theorem glyphAddress_le (v : Byte) : glyphAddress v ≤ 0x0FFF#16 := by
  have := glyphAddress_toNat v
  bv_omega

section
variable {s : State}

theorem State.Inv.top_le (h : s.Inv) (hsp : 0 < s.sp.val) : s.top hsp ≤ 0x0FFE#16 :=
  h.live_le ⟨s.sp.val - 1, by omega⟩ (Nat.sub_lt hsp Nat.one_pos)

theorem exec_index_le (i : Instr) (h : s.I ≤ 0x0FFF#16) : Completes (exec i s) fun t => t.I ≤ 0x0FFF#16 := by
  cases i with
  | ldI nnn => exact completes_next (zext16_le nnn)
  | ldF => exact completes_next (glyphAddress_le _)
  | addI | storeRegs | loadRegs => exact completes_next (mask12_le _)
  | _ => exact (exec_frame _ s).imp fun t hf => (hf .I (by simp [footprint])).trans_le h

/-- The jumps set pc to a bounded target; every other instruction moves it by an outcome. -/
theorem exec_pc_le (i : Instr) (h : s.Inv) (hpc : s.pc ≤ 0x0FFE#16) :
    Completes (exec i s) fun t => t.pc ≤ 0x10FE#16 := by
  cases i with
  | ret => exact exec_ret_cases (fun _ => h.pc_le) (fun hsp => nextPc_le .advanced (h.top_le hsp))
  | call nnn => exact exec_call_cases (fun _ => h.pc_le) (fun _ => zext16_le_pcMax nnn)
  | jp nnn => exact completes_next (zext16_le_pcMax nnn)
  | jpV0 nnn => exact completes_next (jumpTarget_le nnn _)
  | ldVxK x => exact exec_ldVxK_cases (fun _ => nextPc_le .waiting hpc) (fun _ _ => nextPc_le .advanced hpc)
  | storeRegs | loadRegs => exact completes_next (nextPc_le .advanced (by simpa using hpc))
  | _ => exact completes_next (nextPc_le _ hpc)

/-- Every live slot holds an address where a fetch is possible (R30). -/
def LiveLe (s : State) : Prop := ∀ j : Fin 16, j.val < s.sp.val → s.stack[j] ≤ 0x0FFE#16

theorem LiveLe.push (h : LiveLe s) {v : Word} (hv : v ≤ 0x0FFE#16) (hsp : s.sp.val < 16) : LiveLe (s.push v hsp) := by
  intro j hj
  simp only [push_sp, push_stack] at hj ⊢
  by_cases hlt : j.val < s.sp.val
  · have hne : s.sp.val ≠ j.val := by omega
    simpa [Vector.getElem_set_ne, hne] using h j hlt
  · have heq : s.sp.val = j.val := by omega
    simpa [heq] using hv

theorem LiveLe.pop (h : LiveLe s) (hsp : 0 < s.sp.val) : LiveLe (s.pop hsp) :=
  fun j hj => h j (Nat.lt_of_lt_of_le hj (Nat.sub_le _ _))

theorem exec_live_le (i : Instr) (h : LiveLe s) (hpc : s.pc ≤ 0x0FFE#16) : Completes (exec i s) LiveLe := by
  cases i with
  | ret => exact exec_ret_cases (fun _ => h) (fun hsp => h.pop hsp)
  | call => exact exec_call_cases (fun _ => h) (fun hsp => h.push hpc hsp)
  | _ =>
    refine (exec_frame _ s).imp fun t hf j hj => ?_
    have hstack : t.stack = s.stack := hf .stack (by simp [footprint])
    have hsp : t.sp = s.sp := hf .sp (by simp [footprint])
    rw [hstack]
    exact h j (hsp ▸ hj)

theorem exec_ram_wf (i : Instr) (h : s.ram.wf = true) : Completes (exec i s) fun t => t.ram.wf = true := by
  cases i with
  | ldB =>
    exact completes_next (ram_wf_writeByte _ _ _ (ram_wf_writeByte _ _ _ (ram_wf_writeByte _ _ _ h)))
  | storeRegs => exact completes_next (ram_wf_storeBlock s _ h)
  | loadRegs => exact completes_next (by simpa using h)
  | ret => exact exec_ret_cases (fun _ => h) (fun _ => h)
  | call => exact exec_call_cases (fun _ => h) (fun _ => h)
  | ldVxK => exact exec_ldVxK_cases (fun _ => h) (fun _ _ => h)
  | _ => exact completes_next h

theorem exec_fault_iff (i : Instr) (h : s.Inv) (hrun : s.runState ≠ .halted) {t : State} (ht : exec i s = .next t) :
    t.fault = .none ↔ t.runState ≠ .halted := by
  rcases runStateTransitions i s t ht with ⟨hr, hf⟩ | ⟨-, hf, hr⟩ | ⟨-, -, hr, hf⟩ | ⟨-, -, hr, hf⟩
  · rw [hr, hf]
    exact h.fault_iff
  · have hnone : t.fault = .none := hf.trans (h.fault_iff.mpr hrun)
    rw [hr]
    split <;> simp [hnone]
  · simp [hr, hf]
  · simp [hr, hf]

/-- Only `FX0A` starts a wait, and a machine that waits already holds an `FX0A`. -/
theorem ldVxK_of_exec_awaiting {i : Instr} {t : State} (h : s.Inv) (hdec : decodeWord s.opcode = some i)
    (ht : exec i s = .next t) (hw : t.runState = .awaitingKey) : ∃ x, i = .ldVxK x := by
  rcases runStateTransitions i s t ht with ⟨hr, -⟩ | ⟨hx, -⟩ | ⟨-, -, hr, -⟩ | ⟨-, -, hr, -⟩
  · obtain ⟨hmask, -⟩ := h.awaiting (hr ▸ hw)
    exact ⟨_, Option.some.inj (hdec.symm.trans (decodeWord_of_ldVxK_mask hmask))⟩
  · exact hx
  · simp [hr] at hw
  · simp [hr] at hw

/-- A wait is a wait at an `FX0A` that stands at pc and that `opcode` holds (R35). -/
def AwaitsAtLdVxK (s : State) : Prop :=
  s.runState = .awaitingKey → s.opcode &&& 0xF0FF#16 = 0xF00A#16 ∧ s.pc ≤ 0x0FFE#16 ∧ s.fetchWord = s.opcode

/-- Without a key event `FX0A` leaves pc, opcode and memory; with one the machine runs. -/
theorem exec_ldVxK_awaits {x : RegId} (hpc : s.pc ≤ 0x0FFE#16) (hop : s.fetchWord = s.opcode)
    (hdec : decodeWord s.opcode = some (.ldVxK x)) : Completes (exec (.ldVxK x) s) AwaitsAtLdVxK :=
  exec_ldVxK_cases (fun _ _ => ⟨decodeWord_ldVxK_mask hdec, hpc, hop⟩) (fun _ _ hw => by cases hw)

theorem exec_awaits {i : Instr} {t : State} (h : s.Inv) (hpc : s.pc ≤ 0x0FFE#16) (hop : s.fetchWord = s.opcode)
    (hdec : decodeWord s.opcode = some i) (ht : exec i s = .next t) : AwaitsAtLdVxK t := by
  intro hw
  obtain ⟨x, rfl⟩ := ldVxK_of_exec_awaiting h hdec ht hw
  exact (exec_ldVxK_awaits hpc hop hdec).of_next ht hw

/-- An instruction that stands at pc and is latched keeps the invariant. -/
theorem State.Inv.exec {i : Instr} {t : State} (h : s.Inv) (hrun : s.runState ≠ .halted) (hpc : s.pc ≤ 0x0FFE#16)
    (hop : s.fetchWord = s.opcode) (hdec : decodeWord s.opcode = some i) (ht : exec i s = .next t) : t.Inv where
  index_le := (exec_index_le i h.index_le).of_next ht
  pc_le := (exec_pc_le i h hpc).of_next ht
  live_le := (exec_live_le i h.live_le hpc).of_next ht
  fault_iff := exec_fault_iff i h hrun ht
  awaiting := exec_awaits h hpc hop hdec ht
  ram_wf := (exec_ram_wf i h.ram_wf).of_next ht

/-- An unrecognised opcode is no `FX0A`, so the machine that meets one does not wait. -/
theorem State.Inv.unrecognizedOpcode (h : s.Inv) (hpc : s.pc ≤ 0x0FFE#16) (hdec : decodeWord s.opcode = none) :
    (unrecognizedOpcode s).Inv where
  index_le := h.index_le
  pc_le := nextPc_le .advanced hpc
  live_le := h.live_le
  fault_iff := h.fault_iff
  awaiting hw := by
    obtain ⟨hmask, -⟩ := h.awaiting hw
    simp [decodeWord_of_ldVxK_mask hmask] at hdec
  ram_wf := h.ram_wf

/-! ### The invariant under the step and the host's operations -/

theorem State.Inv.execOpcode {t : State} (h : s.Inv) (hrun : s.runState ≠ .halted) (hpc : s.pc ≤ 0x0FFE#16)
    (hop : s.fetchWord = s.opcode) (ht : execOpcode s = .next t) : t.Inv := by
  unfold Machine.execOpcode at ht
  split at ht
  next i hdec => exact h.exec hrun hpc hop hdec ht
  next hdec =>
    cases ht
    exact h.unrecognizedOpcode hpc hdec

theorem State.Inv.cycle {t : State} (h : s.Inv) (ht : cycle s = .next t) : t.Inv := by
  unfold Machine.cycle at ht
  split at ht
  next =>
    cases ht
    exact h.refuseStep
  next hrun =>
    split at ht
    next hfetch => exact h.latchOpcode.execOpcode hrun (of_decide_eq_true hfetch) rfl ht
    next =>
      cases ht
      exact h.raise (by decide)

end

/-- Settles O58: the host's turn changes no element of the invariant, and the cycle keeps it. -/
theorem stepKeepsTheInvariant : Obligations.StepKeepsTheInvariant :=
  fun _ _ h ht => h.hostTurn.cycle ht

/-- Settles O59, operation by operation. -/
theorem operationsKeepTheInvariant : Obligations.OperationsKeepTheInvariant := by
  intro op s t h hload ht
  cases op with
  | new =>
    cases ht
    exact inv_new s
  | loadRom data =>
    cases ht
    exact h.loadRom (hload data rfl) data
  | step inputs => exact (h.present inputs).cycle ht
  | tickTimers =>
    cases ht
    exact h.tickTimers

end Sys2Proof.Machine
end

section
/-! SUPPORT. Memory (spec/20_memory.md R54 to R64): who writes it, what a fetch after a store reads, and the fetch past its end. -/

namespace Sys2Proof.Machine

/-! ### Who writes memory and the screen -/

theorem store_of_ram_mem {i : Instr} (h : .ram ∈ footprint i) : ∃ x, i = .ldB x ∨ i = .storeRegs x := by
  cases i <;> simp [footprint] at h ⊢

theorem cls_or_drw_of_screen_mem {i : Instr} (h : .screen ∈ footprint i) : i = .cls ∨ ∃ x y n, i = .drw x y n := by
  cases i <;> simp [footprint] at h ⊢

/-- Settles O51: a byte or a pixel that differs puts memory or the screen in the footprint, and each names its writers. -/
theorem onlyStoresWriteMemory : Obligations.OnlyStoresWriteMemory := by
  intro i s t h
  have hf : UnchangedExcept (footprint i) s t := (exec_frame i s).of_next h
  refine ⟨fun hne => ?_, fun hne => ?_⟩
  · exact store_of_ram_mem (hf.mem_of_changed (e := .ram) (not_forall.mpr hne))
  · exact cls_or_drw_of_screen_mem (hf.mem_of_changed (e := .screen) (not_forall.mpr hne))

/-! ### The fetch past the end of memory -/

theorem present_frame (s : State) (inp : StepInputs) : UnchangedExcept [.inputs] s (s.present inp) := by
  intro e he
  cases e <;> simp [Agree] at he ⊢

/-- Past the last address a fetch may have, a running machine takes the fault instead (R56). -/
theorem cycle_of_pc_gt {s : State} (hrun : s.runState ≠ .halted) (hpc : 0x0FFE#16 < s.pc) :
    cycle s = .next (s.raise .addressFault) := by
  have hfetch : ¬ s.fetchable = true := fun h => BitVec.not_le.mpr hpc (of_decide_eq_true h)
  rw [cycle, if_neg hrun, if_neg hfetch]

/-- Settles O45: the inputs are presented, then the fault is raised, and each changes only its own elements. -/
theorem fetchPastMemoryFaults : Obligations.FetchPastMemoryFaults := by
  intro s inp hrun hpc
  have hframe : UnchangedExcept [.runState, .fault, .inputs] s ((s.present inp).raise .addressFault) :=
    ((present_frame s inp).trans (raise_frame _ _)).mono (by simp)
  exact ⟨_, cycle_of_pc_gt (s := s.present inp) hrun hpc, rfl, rfl, rfl, hframe⟩

/-! ### What a store leaves at every address -/

/-- Every byte of `t` is what the bytes `v 0` to `v (n-1)` stored at `EA(0)` to `EA(n-1)` of `s` leave there. -/
def MemoryAfterStore (s : State) (n : Nat) (v : Nat → Byte) (t : State) : Prop :=
  ∀ a : Addr, HoldsAfterStore s n v a (t.readByte a)

theorem memoryAfterStore_zero (s : State) (v : Nat → Byte) : MemoryAfterStore s 0 v s :=
  fun _ => ⟨fun k hk => absurd hk k.not_lt_zero, fun _ => rfl⟩

/-- One more byte stored: it is the one at its own address, and at any other the earlier ones decide. -/
theorem MemoryAfterStore.writeByte {s t : State} {n : Nat} {v : Nat → Byte} (h : MemoryAfterStore s n v t)
    (hwf : t.ram.wf = true) (hn : n < 16) : MemoryAfterStore s (n + 1) v (t.writeByte (s.ea n) (v n)) := by
  intro a
  by_cases ha : a = s.ea n
  · subst ha
    rw [readByte_writeByte_self t _ _ hwf]
    refine ⟨fun k hk hka => ?_, fun hout => absurd rfl (hout n n.lt_succ_self)⟩
    rw [ea_injective s k n (by omega) hn hka]
  · rw [readByte_writeByte_ne t _ _ _ ha]
    obtain ⟨hin, hout⟩ := h a
    refine ⟨fun k hk hka => hin k ?_ hka, fun hne => hout fun k hk => hne k (Nat.lt_succ_of_lt hk)⟩
    exact Nat.lt_of_le_of_ne (Nat.le_of_lt_succ hk) fun hkn => ha (hkn ▸ hka.symm)

theorem memoryAfterStore_storeBlock (s : State) (n : Nat) (hn : n ≤ 16) (hwf : s.ram.wf = true) :
    MemoryAfterStore s n (fun k => s.reg (BitVec.ofNat 4 k)) (s.storeBlock n) := by
  refine fun a => ⟨fun k hk hka => ?_, fun hout => ?_⟩
  · rw [← hka, readByte_storeBlock_inside s n k hn hk hwf]
  · exact readByte_storeBlock_outside s n a fun k hk => (hout k hk).symm

/-- Digit `k` of a byte, the hundreds first (R183). -/
def decimalDigit (b : Byte) (k : Nat) : Byte := BitVec.ofNat 8 (b.toNat / 10 ^ (2 - k) % 10)

theorem decimalDigit_zero (b : Byte) : decimalDigit b 0 = bcdHundreds b := by
  have hb : b.toNat / 100 % 10 = b.toNat / 100 := Nat.mod_eq_of_lt (by have := b.isLt; omega)
  exact congrArg (BitVec.ofNat 8) hb

theorem decimalDigit_one (b : Byte) : decimalDigit b 1 = bcdTens b := rfl

theorem decimalDigit_two (b : Byte) : decimalDigit b 2 = bcdOnes b := by simp [decimalDigit, bcdOnes]

theorem exec_ldB_memoryAfterStore (x : RegId) (s : State) (hwf : s.ram.wf = true) :
    Completes (exec (.ldB x) s) (MemoryAfterStore s 3 (decimalDigit (s.reg x))) := by
  have hwf₁ := ram_wf_writeByte s (s.ea 0) (decimalDigit (s.reg x) 0) hwf
  have hwf₂ := ram_wf_writeByte _ (s.ea 1) (decimalDigit (s.reg x) 1) hwf₁
  have h := (((memoryAfterStore_zero s _).writeByte hwf (by decide)).writeByte hwf₁ (by decide)).writeByte hwf₂ (by decide)
  rw [decimalDigit_zero, decimalDigit_one, decimalDigit_two] at h
  exact completes_next h

theorem exec_storeRegs_memoryAfterStore (x : RegId) (s : State) (hwf : s.ram.wf = true) :
    Completes (exec (.storeRegs x) s)
      (MemoryAfterStore s (x.toNat + 1) fun k => s.reg (BitVec.ofNat 4 k)) :=
  completes_next (memoryAfterStore_storeBlock s (x.toNat + 1) (regId_lt x) hwf)

/-! ### A fetch after a store -/

theorem readByte_of_ram_eq {t u : State} (h : u.ram = t.ram) (a : Addr) : u.readByte a = t.readByte a := by
  rw [State.readByte, State.readByte, h]

/-- A fetch reads the two bytes at its own addresses, so it sees at each what the store left there. -/
theorem MemoryAfterStore.fetchSees {s t u : State} {n : Nat} {v : Nat → Byte} (h : MemoryAfterStore s n v t)
    (hram : u.ram = t.ram) : FetchSees s n v u := by
  have hu : MemoryAfterStore s n v u := fun a => readByte_of_ram_eq hram a ▸ h a
  exact ⟨u.fetchLower, u.fetchHigher, rfl, hu _, hu _⟩

/-- Settles O41: each store leaves its bytes at every address, and a fetch reads two of them. -/
theorem storedWordIsFetchedNext : Obligations.StoredWordIsFetchedNext := by
  intro x s hwf
  refine ⟨(exec_ldB_memoryAfterStore x s hwf).imp ?_, (exec_storeRegs_memoryAfterStore x s hwf).imp ?_⟩
  · exact fun t h u hram => h.fetchSees hram
  · exact fun t h u hram => h.fetchSees hram

end Sys2Proof.Machine
end

section
/-! SUPPORT. The decoder and the encoder against each other and against the opcode table (spec/30_encoding.md R83 to R92). -/

namespace Sys2Proof.Machine

/-! ### The three operand formats (R81, R82) -/

/-- A major opcode in bits 15 to 12. -/
def placeMajor (k : Nibble) : Word := k.setWidth 16 <<< 12

/-- The word `kNNN`. -/
def nnnForm (k : Nibble) (nnn : Addr) : Word := placeMajor k ||| placeNNN nnn

/-- The word `kXNN`. -/
def xnnForm (k : Nibble) (x : RegId) (nn : Byte) : Word := placeMajor k ||| (placeX x ||| placeNN nn)

/-- The word `kXYN`. -/
def xynForm (k : Nibble) (x y : RegId) (n : Nibble) : Word := placeMajor k ||| (placeX x ||| placeY y ||| placeN n)

@[simp] theorem n0_placeMajor : ∀ k : Nibble, Word.n0 (placeMajor k) = k := by decide
@[simp] theorem n1_placeMajor : ∀ k : Nibble, Word.n1 (placeMajor k) = 0#4 := by decide
@[simp] theorem n2_placeMajor : ∀ k : Nibble, Word.n2 (placeMajor k) = 0#4 := by decide
@[simp] theorem n3_placeMajor : ∀ k : Nibble, Word.n3 (placeMajor k) = 0#4 := by decide
@[simp] theorem nn_placeMajor : ∀ k : Nibble, Word.nn (placeMajor k) = 0#8 := by decide
@[simp] theorem nnn_placeMajor : ∀ k : Nibble, Word.nnn (placeMajor k) = 0#12 := by decide

section
variable (k n : Nibble) (x y : RegId) (nn : Byte) (nnn : Addr)

/-! Each format holds its fields and nothing else. -/

@[simp] theorem n0_nnnForm : Word.n0 (nnnForm k nnn) = k := by simp [nnnForm, Word.n0_or]
@[simp] theorem nnn_nnnForm : Word.nnn (nnnForm k nnn) = nnn := by simp [nnnForm, Word.nnn_or]

@[simp] theorem n0_xnnForm : Word.n0 (xnnForm k x nn) = k := by simp [xnnForm, Word.n0_or]
@[simp] theorem x_xnnForm : Word.x (xnnForm k x nn) = x := by simp [xnnForm, Word.x, Word.n1_or]
@[simp] theorem nn_xnnForm : Word.nn (xnnForm k x nn) = nn := by simp [xnnForm, Word.nn_or]

@[simp] theorem n0_xynForm : Word.n0 (xynForm k x y n) = k := by simp [xynForm, Word.n0_or]
@[simp] theorem x_xynForm : Word.x (xynForm k x y n) = x := by simp [xynForm, Word.x, Word.n1_or]
@[simp] theorem y_xynForm : Word.y (xynForm k x y n) = y := by simp [xynForm, Word.y, Word.n2_or]
@[simp] theorem n3_xynForm : Word.n3 (xynForm k x y n) = n := by simp [xynForm, Word.n3_or]

/-! A row with a fixed function byte or digit lists it among the fixed bits, before its operands (R84). -/

theorem xnnForm_eq_fixed_or : xnnForm k x nn = (placeMajor k ||| placeNN nn) ||| placeX x := by
  rw [xnnForm, BitVec.or_comm (placeX x), ← BitVec.or_assoc]

theorem xynForm_eq_fixed_or : xynForm k x y n = (placeMajor k ||| placeN n) ||| (placeX x ||| placeY y) := by
  rw [xynForm, BitVec.or_comm _ (placeN n), ← BitVec.or_assoc]

theorem xynForm_digitZero : xynForm k x y 0x0#4 = placeMajor k ||| (placeX x ||| placeY y) := by
  simp [xynForm, placeN]

end

section
variable {op : Word} {k : Nibble}

/-! Every word has each of the three formats. -/

theorem nnnForm_of_n0 (h : op.n0 = k) : nnnForm k op.nnn = op := by
  rw [nnnForm, placeNNN_of_nibbles, ← BitVec.or_assoc, ← BitVec.or_assoc, ← h]
  exact (word_of_nibbles op).symm

theorem xnnForm_of_n0 (h : op.n0 = k) : xnnForm k op.x op.nn = op := by
  rw [xnnForm, placeNN_of_nibbles, ← BitVec.or_assoc, ← BitVec.or_assoc, ← h]
  exact (word_of_nibbles op).symm

theorem xynForm_of_n0 (h : op.n0 = k) : xynForm k op.x op.y op.n3 = op := by
  rw [xynForm, ← BitVec.or_assoc, ← BitVec.or_assoc, ← h]
  exact (word_of_nibbles op).symm

end

/-! ### Encoding what was decoded -/

section
variable {x y : RegId} {i : Instr}

theorem encode_of_decodeAlu {n : Nibble} (h : decodeAlu x y n = some i) : encode i = xynForm 0x8#4 x y n := by
  rw [xynForm_eq_fixed_or]
  unfold decodeAlu at h
  split at h <;> cases h <;> rfl

theorem encode_of_decodeKey {nn : Byte} (h : decodeKey x nn = some i) : encode i = xnnForm 0xE#4 x nn := by
  rw [xnnForm_eq_fixed_or]
  unfold decodeKey at h
  split at h <;> cases h <;> rfl

theorem encode_of_decodeMisc {nn : Byte} (h : decodeMisc x nn = some i) : encode i = xnnForm 0xF#4 x nn := by
  rw [xnnForm_eq_fixed_or]
  unfold decodeMisc at h
  split at h <;> cases h <;> rfl

end

theorem encode_decodeZero {op : Word} (hn0 : op.n0 = 0x0#4) : encode (decodeZero op) = op := by
  unfold decodeZero
  split
  next hcls => exact hcls.symm
  split
  next hret => exact hret.symm
  next => exact (nnnForm_of_n0 hn0 :)

/-- The groups `5XYn` and `9XYn` have one instruction, at the digit 0. -/
theorem encode_of_digitZero {op : Word} {k : Nibble} {i j : Instr} (hn0 : op.n0 = k)
    (hj : encode j = placeMajor k ||| (placeX op.x ||| placeY op.y))
    (h : (if op.n3 = 0x0#4 then some j else none) = some i) : encode i = op := by
  obtain ⟨hn3, hji⟩ := Option.ite_none_right_eq_some.mp h
  cases hji
  rw [hj, ← xynForm_digitZero, ← hn3, xynForm_of_n0 hn0]

/-- The encoder inverts the decoder, group by group of R83. Where a group has one instruction and no fixed byte or digit, the
encoding is the format's word by unfolding. -/
theorem encode_of_decodeWord {op : Word} {i : Instr} (h : decodeWord op = some i) : encode i = op := by
  unfold decodeWord at h
  split at h
  case h_1 hn0 =>
    cases h
    exact encode_decodeZero hn0
  case h_2 hn0 | h_3 hn0 | h_11 hn0 | h_12 hn0 =>
    cases h
    exact (nnnForm_of_n0 hn0 :)
  case h_4 hn0 | h_5 hn0 | h_7 hn0 | h_8 hn0 | h_13 hn0 =>
    cases h
    exact (xnnForm_of_n0 hn0 :)
  case h_14 hn0 =>
    cases h
    exact (xynForm_of_n0 hn0 :)
  case h_6 hn0 | h_10 hn0 => exact encode_of_digitZero hn0 rfl h
  case h_9 hn0 => exact (encode_of_decodeAlu h).trans (xynForm_of_n0 hn0)
  case h_15 hn0 => exact (encode_of_decodeKey h).trans (xnnForm_of_n0 hn0)
  case h_16 hn0 => exact (encode_of_decodeMisc h).trans (xnnForm_of_n0 hn0)
  case h_17 => cases h

theorem wellFormed_iff (i : Instr) : i.WellFormed ↔ i ≠ .sys 0x0E0#12 ∧ i ≠ .sys 0x0EE#12 := by
  cases i <;> simp [Instr.WellFormed, Instr.wellFormed, sysOperandOk]

/-- The two terms that are not well-formed encode to the words of `CLS` and `RET`, which decode to those. -/
theorem wellFormed_of_decodeWord {op : Word} {i : Instr} (h : decodeWord op = some i) : i.WellFormed := by
  have hop : encode i = op := encode_of_decodeWord h
  rw [wellFormed_iff]
  constructor <;>
  · rintro rfl
    rw [← hop] at h
    exact absurd h (by decide)

/-- Settles O3: the encoder inverts the decoder, which answers no ill-formed term. -/
theorem encodeOfDecode : Obligations.EncodeOfDecode :=
  fun _ _ h => ⟨encode_of_decodeWord h, wellFormed_of_decodeWord h⟩

/-! ### Decoding what was encoded -/

theorem eq_nnn_of_nnnForm_eq {k : Nibble} {nnn : Addr} {op : Word} (h : nnnForm k nnn = op) : nnn = op.nnn := by
  rw [← h, nnn_nnnForm]

theorem decodeZero_nnnForm {nnn : Addr} (h : (Instr.sys nnn).WellFormed) :
    decodeZero (nnnForm 0x0#4 nnn) = .sys nnn := by
  obtain ⟨hcls, hret⟩ := (wellFormed_iff _).mp h
  rw [decodeZero, if_neg fun e => hcls (congrArg Instr.sys (eq_nnn_of_nnnForm_eq e)),
    if_neg fun e => hret (congrArg Instr.sys (eq_nnn_of_nnnForm_eq e)), nnn_nnnForm]

theorem decodeWord_alu (x y : RegId) (n : Nibble) : decodeWord (xynForm 0x8#4 x y n) = decodeAlu x y n := by
  simp [decodeWord]

theorem decodeWord_key (x : RegId) (nn : Byte) : decodeWord (xnnForm 0xE#4 x nn) = decodeKey x nn := by
  simp [decodeWord]

theorem decodeWord_misc (x : RegId) (nn : Byte) : decodeWord (xnnForm 0xF#4 x nn) = decodeMisc x nn := by
  simp [decodeWord]

/-- Every row of R84 is decoded from some word. -/
theorem exists_decodeWord_eq_some (i : Instr) (h : i.WellFormed) : ∃ op : Word, decodeWord op = some i := by
  cases i with
  | cls => exact ⟨0x00E0#16, rfl⟩
  | ret => exact ⟨0x00EE#16, rfl⟩
  | sys nnn => exact ⟨nnnForm 0x0#4 nnn, by simp [decodeWord, decodeZero_nnnForm h]⟩
  | jp nnn => exact ⟨nnnForm 0x1#4 nnn, by simp [decodeWord]⟩
  | call nnn => exact ⟨nnnForm 0x2#4 nnn, by simp [decodeWord]⟩
  | seImm x nn => exact ⟨xnnForm 0x3#4 x nn, by simp [decodeWord]⟩
  | sneImm x nn => exact ⟨xnnForm 0x4#4 x nn, by simp [decodeWord]⟩
  | seReg x y => exact ⟨xynForm 0x5#4 x y 0x0#4, by simp [decodeWord]⟩
  | ldImm x nn => exact ⟨xnnForm 0x6#4 x nn, by simp [decodeWord]⟩
  | addImm x nn => exact ⟨xnnForm 0x7#4 x nn, by simp [decodeWord]⟩
  | ldReg x y => exact ⟨_, decodeWord_alu x y 0x0#4⟩
  | orReg x y => exact ⟨_, decodeWord_alu x y 0x1#4⟩
  | andReg x y => exact ⟨_, decodeWord_alu x y 0x2#4⟩
  | xorReg x y => exact ⟨_, decodeWord_alu x y 0x3#4⟩
  | addReg x y => exact ⟨_, decodeWord_alu x y 0x4#4⟩
  | subReg x y => exact ⟨_, decodeWord_alu x y 0x5#4⟩
  | shr x y => exact ⟨_, decodeWord_alu x y 0x6#4⟩
  | subn x y => exact ⟨_, decodeWord_alu x y 0x7#4⟩
  | shl x y => exact ⟨_, decodeWord_alu x y 0xE#4⟩
  | sneReg x y => exact ⟨xynForm 0x9#4 x y 0x0#4, by simp [decodeWord]⟩
  | ldI nnn => exact ⟨nnnForm 0xA#4 nnn, by simp [decodeWord]⟩
  | jpV0 nnn => exact ⟨nnnForm 0xB#4 nnn, by simp [decodeWord]⟩
  | rnd x nn => exact ⟨xnnForm 0xC#4 x nn, by simp [decodeWord]⟩
  | drw x y n => exact ⟨xynForm 0xD#4 x y n, by simp [decodeWord, Word.n]⟩
  | skp x => exact ⟨_, decodeWord_key x 0x9E#8⟩
  | sknp x => exact ⟨_, decodeWord_key x 0xA1#8⟩
  | ldVxDt x => exact ⟨_, decodeWord_misc x 0x07#8⟩
  | ldVxK x => exact ⟨_, decodeWord_misc x 0x0A#8⟩
  | ldDtVx x => exact ⟨_, decodeWord_misc x 0x15#8⟩
  | ldStVx x => exact ⟨_, decodeWord_misc x 0x18#8⟩
  | addI x => exact ⟨_, decodeWord_misc x 0x1E#8⟩
  | ldF x => exact ⟨_, decodeWord_misc x 0x29#8⟩
  | ldB x => exact ⟨_, decodeWord_misc x 0x33#8⟩
  | storeRegs x => exact ⟨_, decodeWord_misc x 0x55#8⟩
  | loadRegs x => exact ⟨_, decodeWord_misc x 0x65#8⟩

/-- A word that decodes to the instruction is its encoding. -/
theorem decodeWord_encode {i : Instr} (h : i.WellFormed) : decodeWord (encode i) = some i := by
  obtain ⟨op, hop⟩ := exists_decodeWord_eq_some i h
  rwa [encode_of_decodeWord hop]

theorem opcodeOfBytes_extract (op : Word) : opcodeOfBytes (op.extractLsb' 8 8) (op.extractLsb' 0 8) = op :=
  BitVec.extractLsb'_append_extractLsb' (w := 8) (len := 8)

theorem decode_of_decodeWord {lower higher : Byte} {i : Instr} (rest : List Byte)
    (h : decodeWord (opcodeOfBytes lower higher) = some i) : decode (lower :: higher :: rest) = .ok (i, rest) := by
  simp [decode, h]

/-- Settles O2: some word decodes to the instruction, and by O3 that word is its encoding. -/
theorem decodeOfEncode : Obligations.DecodeOfEncode := by
  intro i hi
  have hword : decodeWord (encode i) = some i := decodeWord_encode hi
  exact ⟨hword, decode_of_decodeWord [] (by rwa [opcodeOfBytes_extract])⟩

/-! ### The words no row matches -/

/-- The seven digits of R86 are those that the nine rows of the 8XY group leave. -/
theorem decodeAlu_eq_none_iff (x y : RegId) (n : Nibble) :
    decodeAlu x y n = none ↔ n ∈ [0x8#4, 0x9#4, 0xA#4, 0xB#4, 0xC#4, 0xD#4, 0xF#4] := by
  have hcompl : ∀ m : Nibble, m ∈ [0x8#4, 0x9#4, 0xA#4, 0xB#4, 0xC#4, 0xD#4, 0xF#4] ↔
      m ∉ [0x0#4, 0x1#4, 0x2#4, 0x3#4, 0x4#4, 0x5#4, 0x6#4, 0x7#4, 0xE#4] := by decide
  rw [hcompl]
  unfold decodeAlu
  split <;> simp_all

theorem decodeKey_eq_none_iff (x : RegId) (nn : Byte) : decodeKey x nn = none ↔ nn ∉ [0x9E#8, 0xA1#8] := by
  unfold decodeKey
  split <;> simp_all

theorem decodeMisc_eq_none_iff (x : RegId) (nn : Byte) : decodeMisc x nn = none ↔
    nn ∉ [0x07#8, 0x0A#8, 0x15#8, 0x18#8, 0x1E#8, 0x29#8, 0x33#8, 0x55#8, 0x65#8] := by
  unfold decodeMisc
  split <;> simp_all

/-- Settles O4, group by group of R83: five of the sixteen groups leave words over. -/
theorem unrecognizedOpcodesAreTheListed : Obligations.UnrecognizedOpcodesAreTheListed := by
  intro op
  unfold decodeWord
  split
  case h_6 hn0 | h_10 hn0 => simp [hn0]
  case h_9 hn0 => simp [hn0, decodeAlu_eq_none_iff]
  case h_15 hn0 => simp [hn0, decodeKey_eq_none_iff]
  case h_16 hn0 => simp [hn0, decodeMisc_eq_none_iff]
  case h_17 =>
    -- no nibble is left beside the sixteen
    exfalso
    simp only [imp_false] at *
    bv_omega
  all_goals next hn0 => simp [hn0]

/-- Settles O1: each word is closed, so the decoder is run on it. -/
theorem tableWordsDecode : Obligations.TableWordsDecode := by
  unfold Obligations.TableWordsDecode
  decide

end Sys2Proof.Machine
end

section
/-! SUPPORT. Control transfer (spec/40_control_flow.md R100 to R104): what its words decode to, where each instruction sets pc and the
stack, and the step at a jump to its own address. -/

namespace Sys2Proof.Machine

/-! ### The words of a major opcode (R83) -/

/-- A row whose mask holds the major opcode covers only words of that group. -/
theorem encodes_of_n0 {mask pattern : Word} {instr : Word → Instr} {k : Nibble} (hmask : Word.n0 mask = 0xF#4)
    (hk : Word.n0 pattern = k) (h : ∀ op : Word, op.n0 = k → decodeWord op = some (instr op)) :
    Encodes mask pattern instr :=
  fun op hop => h op ((op.n0_of_mask mask pattern hmask hop).trans hk)

theorem encodes_jp : Encodes 0xF000#16 0x1000#16 fun op => .jp op.nnn :=
  encodes_of_n0 (k := 0x1#4) rfl rfl fun op hn0 => by simp [decodeWord, hn0]

theorem encodes_call : Encodes 0xF000#16 0x2000#16 fun op => .call op.nnn :=
  encodes_of_n0 (k := 0x2#4) rfl rfl fun op hn0 => by simp [decodeWord, hn0]

theorem encodes_jpV0 : Encodes 0xF000#16 0xB000#16 fun op => .jpV0 op.nnn :=
  encodes_of_n0 (k := 0xB#4) rfl rfl fun op hn0 => by simp [decodeWord, hn0]

/-- A mask of all ones covers its pattern alone. -/
theorem encodes_word {w : Word} {i : Instr} (h : decodeWord w = some i) : Encodes 0xFFFF#16 w fun _ => i := by
  intro op hop
  have hw : op = w := (BitVec.and_allOnes (x := op)).symm.trans hop
  rw [hw, h]

/-- The catch-all of the group 0: `00E0` and `00EE` are tried before it. -/
theorem decodeWord_sys {op : Word} (hn0 : op.n0 = 0x0#4) (hcls : op ≠ 0x00E0#16) (hret : op ≠ 0x00EE#16) :
    decodeWord op = some (.sys op.nnn) := by
  simp [decodeWord, decodeZero, hn0, hcls, hret]

/-! ### Jumps -/

/-- An element that agrees after all needs no place in the frame. -/
theorem UnchangedExcept.of_agree {xs : List Elem} {e : Elem} {s t : State} (h : UnchangedExcept (e :: xs) s t)
    (he : Agree e s t) : UnchangedExcept xs s t := by
  intro e' hxs
  by_cases heq : e' = e
  · exact heq ▸ he
  · exact h e' (List.not_mem_cons_of_ne_of_not_mem heq hxs)

section
variable (s : State)

theorem setPc_complete_frame (v : Word) (o : StepOutcome) : UnchangedExcept [.pc] s ((s.setPc v).complete o) :=
  ((setPc_frame s v).trans (complete_frame _ o false)).mono (by simp)

/-- A jump to where pc stands changes nothing. -/
theorem jump_to_pc_frame : UnchangedExcept [] s ((s.setPc s.pc).complete .jumped) :=
  (setPc_complete_frame s s.pc .jumped).of_agree rfl

end

/-- 0xFFF is past the last address a fetch may have (R56). -/
theorem not_fetchable_of_pc_eq_max {s : State} (h : s.pc = zext16 0xFFF#12) : s.fetchable = false := by
  rw [State.fetchable, h]
  rfl

theorem eq_zext16_of_toNat_eq {w : Word} {nnn : Addr} (h : w.toNat = nnn.toNat) : w = zext16 nnn :=
  BitVec.eq_of_toNat_eq (h.trans (zext16_toNat nnn).symm)

/-- The word `1NNN` whose operand is an address of memory decodes to the jump there. -/
theorem exists_decodeWord_jump_to {pc : Word} (h : pc ≤ 0x0FFF#16) :
    ∃ nnn : Addr, zext16 nnn = pc ∧ decodeWord (0x1000#16 ||| pc) = some (.jp nnn) := by
  have hpc : pc = zext16 (pc.setWidth 12) := eq_zext16_of_toNat_eq (by bv_omega)
  have hword : 0x1000#16 ||| pc = encode (.jp (pc.setWidth 12)) := congrArg (0x1000#16 ||| ·) hpc
  exact ⟨_, hpc.symm, by rw [hword, decodeWord_encode rfl]⟩

/-! ### The stack -/

/-- A return from depth `j + 1` pops slot `j` and resumes past the address it holds. -/
theorem exec_ret_of_sp_succ (s : State) (j : Fin 16) (h : s.sp.val = j.val + 1) : Completes (exec .ret s) fun t =>
    t.sp.val = j.val ∧ t.pc = s.stack[j] + 2 ∧ t.result = some (.ok .advanced false) ∧ UnchangedExcept [.pc, .sp] s t := by
  have hpos : 0 < s.sp.val := h ▸ Nat.succ_pos j.val
  have hlast : s.sp.val - 1 = j.val := Nat.sub_eq_of_eq_add h
  have htop : s.top hpos = s.stack[j] := by simp [State.top, hlast]
  have hframe := ((pop_frame s hpos).trans (setPc_complete_frame _ (s.top hpos) .advanced)).mono
    (ys := [.pc, .sp]) (by simp)
  exact ⟨_, exec_ret_of_pos s hpos, hlast, congrArg (· + 2) htop, rfl, hframe⟩

/-- A call at depth `j` writes its own address to slot `j`, counts the slot and jumps. -/
theorem exec_call_of_sp (nnn : Addr) (s : State) (j : Fin 16) (h : s.sp.val = j.val) :
    Completes (exec (.call nnn) s) fun t =>
      t.stack = s.stack.set j.val s.pc ∧ t.sp.val = j.val + 1 ∧ t.pc = zext16 nnn ∧
      t.result = some (.ok .jumped false) ∧ UnchangedExcept [.pc, .sp, .stack] s t := by
  have hfree : s.sp.val < 16 := h ▸ j.isLt
  have hframe := ((push_frame s s.pc hfree).trans (setPc_complete_frame _ (zext16 nnn) .jumped)).mono
    (ys := [.pc, .sp, .stack]) (by simp)
  exact ⟨_, exec_call_of_free s nnn hfree, by simp [h], congrArg (· + 1) h, rfl, rfl, hframe⟩

/-! ### A step that fetches an instruction -/

/-- A running machine whose fetch is inside memory latches the word at pc and executes its instruction (R204, R206). -/
theorem cycle_of_decodeWord {s : State} {i : Instr} (hrun : s.runState ≠ .halted) (hpc : s.pc ≤ 0x0FFE#16)
    (hdec : decodeWord s.fetchWord = some i) : cycle s = exec i s.latchOpcode := by
  have hfetch : s.fetchable = true := decide_eq_true hpc
  rw [cycle, if_neg hrun, if_pos hfetch, execOpcode, latchOpcode_opcode, hdec]

theorem latchOpcode_frame (s : State) : UnchangedExcept [.opcode] s s.latchOpcode := by
  intro e he
  cases e <;> simp [Agree] at he ⊢

/-! ### The statements -/

/-- Settles O5: the return pops slot `j`, and its one word has every bit fixed. -/
theorem retResumesAfterTheCall : Obligations.RetResumesAfterTheCall :=
  ⟨encodes_word rfl, exec_ret_of_sp_succ⟩

/-- Settles O7: the group 0 but for its two fixed words, and a completion that moves pc alone. -/
theorem sysOnlyAdvances : Obligations.SysOnlyAdvances := by
  refine ⟨fun op hop hcls hret => ?_, fun nnn s => ?_⟩
  · exact decodeWord_sys (op.n0_of_mask _ _ rfl hop) hcls hret
  · exact completes_next ⟨⟨rfl, rfl⟩, complete_frame s .advanced false⟩

/-- Settles O8: the jump writes pc alone, so where pc is the target already it changes nothing. -/
theorem jpSetsPc : Obligations.JpSetsPc := by
  refine ⟨encodes_jp, fun nnn s => completes_next ?_⟩
  refine ⟨zext16_toNat nnn, rfl, setPc_complete_frame s _ _, ?_, fun hself => ?_⟩
  · rintro rfl
    exact not_fetchable_of_pc_eq_max rfl
  · rw [← eq_zext16_of_toNat_eq hself]
    exact jump_to_pc_frame s

/-- Settles O9: the slots after the call are those before it with slot `j` set. -/
theorem callPushesItsAddress : Obligations.CallPushesItsAddress := by
  refine ⟨encodes_call, fun nnn s j hsp => (exec_call_of_sp nnn s j hsp).imp ?_⟩
  rintro t ⟨hstack, hsp', hpc, hres, hframe⟩
  refine ⟨?_, fun k hk => ?_, hsp', hpc ▸ zext16_toNat nnn, hres, hframe⟩
  · simp [hstack]
  · have hne : j.val ≠ k.val := fun h => hk (Fin.ext h.symm)
    simp [hstack, Vector.getElem_set_ne, hne]

/-- Settles O11: the slot the return pops is the one the call wrote. -/
theorem callThenRetPairs : Obligations.CallThenRetPairs := by
  intro nnn s hfree
  refine (exec_call_of_sp nnn s ⟨s.sp.val, hfree⟩ rfl).imp ?_
  rintro t ⟨hstack, hsp, -⟩ u hustack husp
  refine (exec_ret_of_sp_succ u ⟨s.sp.val, hfree⟩ ((congrArg Fin.val husp).trans hsp)).imp ?_
  rintro w ⟨hwsp, hwpc, -, hframe⟩
  exact ⟨by simpa [hustack, hstack] using hwpc, Fin.ext hwsp, hframe⟩

/-- Settles O12: the target is the exact sum. -/
theorem jpV0AddsRegisterZero : Obligations.JpV0AddsRegisterZero :=
  ⟨encodes_jpV0, fun nnn s => completes_next ⟨jumpTarget_toNat nnn _, rfl, setPc_complete_frame s _ _⟩⟩

/-- Settles O50: the inputs are presented and the word is latched, and the jump to pc then changes nothing. -/
theorem selfJumpStays : Obligations.SelfJumpStays := by
  intro s inp hrun hpc hword
  obtain ⟨nnn, hnnn, hdec⟩ := exists_decodeWord_jump_to (pc := s.pc) (BitVec.le_trans hpc (by decide))
  have hstep : cycle (s.present inp) = exec (.jp nnn) (s.present inp).latchOpcode :=
    cycle_of_decodeWord (s := s.present inp) hrun hpc (hword ▸ hdec :)
  have hjump : UnchangedExcept [] (s.present inp).latchOpcode
      (((s.present inp).latchOpcode.setPc (zext16 nnn)).complete .jumped) := hnnn ▸ jump_to_pc_frame _
  have hframe := (((present_frame s inp).trans (latchOpcode_frame _)).trans hjump).mono
    (ys := [.opcode, .inputs]) (by simp)
  exact ⟨_, hstep, rfl, rfl, hframe⟩

end Sys2Proof.Machine
end

section
/-! SUPPORT. The conditional skips on registers (spec/41_skips.md R110 to R113): what their words decode to, the outcome each ends
with, and where a taken skip leaves the range of a fetch. -/

namespace Sys2Proof.Machine

/-! ### The words of the skips (R83, R84) -/

theorem encodes_seImm : Encodes 0xF000#16 0x3000#16 fun op => .seImm op.x op.nn :=
  encodes_of_n0 (k := 0x3#4) rfl rfl fun op hn0 => by simp [decodeWord, hn0]

theorem encodes_sneImm : Encodes 0xF000#16 0x4000#16 fun op => .sneImm op.x op.nn :=
  encodes_of_n0 (k := 0x4#4) rfl rfl fun op hn0 => by simp [decodeWord, hn0]

/-- A row whose mask holds the major opcode and the low digit covers only words with these two. -/
theorem encodes_of_n0_n3 {mask pattern : Word} {instr : Word → Instr} {k d : Nibble} (hmask : Word.n0 mask = 0xF#4)
    (hmask3 : Word.n3 mask = 0xF#4) (hk : Word.n0 pattern = k) (hd : Word.n3 pattern = d)
    (h : ∀ op : Word, op.n0 = k → op.n3 = d → decodeWord op = some (instr op)) : Encodes mask pattern instr :=
  fun op hop => h op ((op.n0_of_mask mask pattern hmask hop).trans hk) ((op.n3_of_mask mask pattern hmask3 hop).trans hd)

theorem encodes_seReg : Encodes 0xF00F#16 0x5000#16 fun op => .seReg op.x op.y :=
  encodes_of_n0_n3 (k := 0x5#4) (d := 0x0#4) rfl rfl rfl rfl fun op hn0 hn3 => by simp [decodeWord, hn0, hn3]

theorem encodes_sneReg : Encodes 0xF00F#16 0x9000#16 fun op => .sneReg op.x op.y :=
  encodes_of_n0_n3 (k := 0x9#4) (d := 0x0#4) rfl rfl rfl rfl fun op hn0 hn3 => by simp [decodeWord, hn0, hn3]

/-- Two of the groups that R86 lists. -/
theorem decodeWord_eq_none_of_n3_ne_zero {op : Word} (hn0 : op.n0 = 0x5#4 ∨ op.n0 = 0x9#4) (hn3 : op.n3 ≠ 0x0#4) :
    decodeWord op = none := by
  refine (unrecognizedOpcodesAreTheListed op).mpr ?_
  rcases hn0 with h5 | h9
  · exact .inl ⟨h5, hn3⟩
  · exact .inr (.inr (.inl ⟨h9, hn3⟩))

/-! ### The outcome of a skip (R205) -/

theorem skipIf_beq (a b : Byte) : skipIf (a == b) = if a = b then .skipped else .advanced := by simp [skipIf]

theorem skipIf_bne (a b : Byte) : skipIf (a != b) = if a = b then .advanced else .skipped := by
  by_cases h : a = b <;> simp [skipIf, h]

/-- A handler that only completes moves pc by its outcome and writes nothing else. -/
theorem completes_complete (s : State) (o : StepOutcome) :
    Completes (.next (s.complete o)) fun t => EndsAs o s t ∧ UnchangedExcept [.pc] s t :=
  completes_next ⟨⟨rfl, rfl⟩, complete_frame s o false⟩

section
variable (x y : RegId) (nn : Byte) (s : State)

theorem exec_seImm_ends : Completes (exec (.seImm x nn) s) fun t =>
    EndsAs (if s.reg x = nn then .skipped else .advanced) s t ∧ UnchangedExcept [.pc] s t :=
  skipIf_beq (s.reg x) nn ▸ completes_complete s _

theorem exec_sneImm_ends : Completes (exec (.sneImm x nn) s) fun t =>
    EndsAs (if s.reg x = nn then .advanced else .skipped) s t ∧ UnchangedExcept [.pc] s t :=
  skipIf_bne (s.reg x) nn ▸ completes_complete s _

theorem exec_seReg_ends : Completes (exec (.seReg x y) s) fun t =>
    EndsAs (if s.reg x = s.reg y then .skipped else .advanced) s t ∧ UnchangedExcept [.pc] s t :=
  skipIf_beq (s.reg x) (s.reg y) ▸ completes_complete s _

theorem exec_sneReg_ends : Completes (exec (.sneReg x y) s) fun t =>
    EndsAs (if s.reg x = s.reg y then .advanced else .skipped) s t ∧ UnchangedExcept [.pc] s t :=
  skipIf_bne (s.reg x) (s.reg y) ▸ completes_complete s _

end

/-- The last four addresses of a fetch are those from which a skip leaves its range (R56). -/
theorem not_fetchable_of_skipped {s t : State} (h : EndsAs .skipped s t) (hlo : 0x0FFB#16 ≤ s.pc) (hhi : s.pc ≤ 0x0FFE#16) :
    t.fetchable = false := by
  obtain ⟨hpc, -⟩ := h
  have hpast : ¬ s.pc + 4 ≤ 0x0FFE#16 := by bv_omega
  rw [State.fetchable, hpc]
  exact decide_eq_false hpast

/-! ### The statements -/

/-- Settles O13: each skip completes with the outcome its comparison picks, and a taken one adds 4 to pc. -/
theorem skipOnImmediate : Obligations.SkipOnImmediate := by
  refine ⟨encodes_seImm, encodes_sneImm, fun x nn s => ⟨(exec_seImm_ends x nn s).imp ?_, exec_sneImm_ends x nn s⟩⟩
  rintro t ⟨hends, hframe⟩
  refine ⟨hends, hframe, fun hlo hhi heq => ?_⟩
  rw [if_pos heq] at hends
  exact not_fetchable_of_skipped hends hlo hhi

/-- Settles O14: as O13 with Vy for the immediate; by O4 the words with another low digit are no instruction. -/
theorem skipOnRegisters : Obligations.SkipOnRegisters :=
  ⟨encodes_seReg, encodes_sneReg, fun _ => decodeWord_eq_none_of_n3_ne_zero,
    fun x y s => ⟨exec_seReg_ends x y s, exec_sneReg_ends x y s⟩⟩

end Sys2Proof.Machine
end

section
/-! SUPPORT. Immediate loads and adds, random (spec/42_immediate.md R120 to R123): what their words decode to, and the one register
each writes. -/

namespace Sys2Proof.Machine

/-! ### The words of the group (R83, R84) -/

theorem encodes_ldImm : Encodes 0xF000#16 0x6000#16 fun op => .ldImm op.x op.nn :=
  encodes_of_n0 (k := 0x6#4) rfl rfl fun op hn0 => by simp [decodeWord, hn0]

theorem encodes_addImm : Encodes 0xF000#16 0x7000#16 fun op => .addImm op.x op.nn :=
  encodes_of_n0 (k := 0x7#4) rfl rfl fun op hn0 => by simp [decodeWord, hn0]

theorem encodes_ldI : Encodes 0xF000#16 0xA000#16 fun op => .ldI op.nnn :=
  encodes_of_n0 (k := 0xA#4) rfl rfl fun op hn0 => by simp [decodeWord, hn0]

theorem encodes_rnd : Encodes 0xF000#16 0xC000#16 fun op => .rnd op.x op.nn :=
  encodes_of_n0 (k := 0xC#4) rfl rfl fun op hn0 => by simp [decodeWord, hn0]

/-! ### The write of one register -/

section
variable (x : RegId) (nn : Byte) (s : State)

theorem setReg_regsExcept (v : Byte) : RegsExcept [x] s (s.setReg x v) :=
  fun r hr => reg_setReg_ne s x r v (List.ne_of_not_mem_cons hr)

/-- A handler that writes one register and advances writes nothing else. -/
theorem completes_setReg (v : Byte) : Completes (.next ((s.setReg x v).complete .advanced)) (WritesReg x v s) :=
  completes_next ⟨reg_setReg_self s x v, setReg_regsExcept x s v, ⟨rfl, rfl⟩,
    (setReg_frame s x v).trans (complete_frame _ .advanced false)⟩

theorem exec_ldImm_writes : Completes (exec (.ldImm x nn) s) (WritesReg x nn s) := completes_setReg x s nn

theorem exec_addImm_writes : Completes (exec (.addImm x nn) s) (WritesReg x (s.reg x + nn) s) := completes_setReg x s _

theorem exec_rnd_writes : Completes (exec (.rnd x nn) s) (WritesReg x (s.rnd &&& nn) s) := completes_setReg x s _

/-- `7X00` keeps Vx (R120). -/
theorem exec_addImm_zero : Completes (exec (.addImm x 0x00#8) s) fun t => t.reg x = s.reg x := by
  refine (exec_addImm_writes x 0x00#8 s).imp ?_
  rintro t ⟨hreg, -⟩
  exact hreg.trans (BitVec.add_zero _)

end

/-- A masked byte has no bit outside its mask (R123). -/
theorem masked_and_not_mask (b nn : Byte) : b &&& nn &&& ~~~nn = 0 := by
  rw [BitVec.and_assoc, BitVec.and_not_self]
  exact BitVec.and_zero

/-! ### The statements -/

/-- Settles O15: the load writes Vx alone, and adding zero in the state it leaves keeps it. -/
theorem loadImmediate : Obligations.LoadImmediate := by
  refine ⟨encodes_ldImm, fun x nn s => (exec_ldImm_writes x nn s).imp fun t hwrites => ⟨hwrites, ?_⟩⟩
  obtain ⟨hload, -⟩ := hwrites
  exact (exec_addImm_zero x t).imp fun u hkeep => hkeep.trans hload

/-- Settles O16: the sum of two bytes is the sum of their numbers modulo 256. -/
theorem addImmediateWraps : Obligations.AddImmediateWraps := by
  refine ⟨encodes_addImm, fun x nn s => (exec_addImm_writes x nn s).imp ?_⟩
  rintro t ⟨hsum, hrest⟩
  exact ⟨hsum ▸ BitVec.toNat_add (s.reg x) nn, hrest⟩

/-- Settles O17: a 12-bit operand is unchanged by its extension to 16 bits. -/
theorem loadIndex : Obligations.LoadIndex :=
  ⟨encodes_ldI, fun nnn s => completes_next ⟨zext16_toNat nnn, ⟨rfl, rfl⟩,
    (setI_frame s (zext16 nnn)).trans (complete_frame _ .advanced false)⟩⟩

/-- Settles O18: the byte written is the draw under its mask. -/
theorem randomIsMasked : Obligations.RandomIsMasked := by
  refine ⟨encodes_rnd, fun x nn s => (exec_rnd_writes x nn s).imp fun t hwrites => ⟨hwrites, ?_⟩⟩
  obtain ⟨hmasked, -⟩ := hwrites
  exact hmasked ▸ masked_and_not_mask s.rnd nn

end Sys2Proof.Machine
end

section
/-! SUPPORT. The register-to-register ALU (spec/43_alu.md R130 to R140): what the words of the 8XY group decode to, and the results of
the instructions with a flag as numbers. -/

namespace Sys2Proof.Machine

/-! ### The words of the group (R83, R84; the digits are D31) -/

/-- A word of the 8XY group decodes by its low digit. -/
theorem encodes_alu {pattern : Word} {instr : RegId → RegId → Instr} (hn0 : Word.n0 pattern = 0x8#4)
    (hdigit : ∀ x y, decodeAlu x y (Word.n3 pattern) = some (instr x y)) :
    Encodes 0xF00F#16 pattern fun op => instr op.x op.y :=
  encodes_of_n0_n3 rfl rfl hn0 rfl fun op h0 h3 => by simp [decodeWord, h0, h3, hdigit]

theorem encodes_ldReg : Encodes 0xF00F#16 0x8000#16 fun op => .ldReg op.x op.y := encodes_alu rfl fun _ _ => rfl

theorem encodes_orReg : Encodes 0xF00F#16 0x8001#16 fun op => .orReg op.x op.y := encodes_alu rfl fun _ _ => rfl

theorem encodes_andReg : Encodes 0xF00F#16 0x8002#16 fun op => .andReg op.x op.y := encodes_alu rfl fun _ _ => rfl

theorem encodes_xorReg : Encodes 0xF00F#16 0x8003#16 fun op => .xorReg op.x op.y := encodes_alu rfl fun _ _ => rfl

theorem encodes_addReg : Encodes 0xF00F#16 0x8004#16 fun op => .addReg op.x op.y := encodes_alu rfl fun _ _ => rfl

theorem encodes_subReg : Encodes 0xF00F#16 0x8005#16 fun op => .subReg op.x op.y := encodes_alu rfl fun _ _ => rfl

theorem encodes_shr : Encodes 0xF00F#16 0x8006#16 fun op => .shr op.x op.y := encodes_alu rfl fun _ _ => rfl

theorem encodes_subn : Encodes 0xF00F#16 0x8007#16 fun op => .subn op.x op.y := encodes_alu rfl fun _ _ => rfl

theorem encodes_shl : Encodes 0xF00F#16 0x800E#16 fun op => .shl op.x op.y := encodes_alu rfl fun _ _ => rfl

/-! ### The results as numbers -/

/-- The difference modulo 256, without a truncated subtraction: 256 is added first (R137). -/
theorem sub_toNat (a b : Byte) : (a - b).toNat = (a.toNat + 256 - b.toNat) % 256 := by
  rw [BitVec.toNat_sub', ← Nat.add_sub_assoc b.isLt.le]

theorem shiftRight_one_toNat (v : Byte) : (v >>> 1).toNat = v.toNat / 2 := by
  rw [BitVec.toNat_ushiftRight, Nat.shiftRight_one]

theorem shiftLeft_one_toNat (v : Byte) : (v <<< 1).toNat = v.toNat * 2 % 256 := by
  rw [BitVec.toNat_shiftLeft, Nat.shiftLeft_eq, Nat.pow_one]

/-! ### The end of the instructions with a flag (R130) -/

section
variable (x : RegId) (s : State) (v : Byte) (b : Bool)

/-- The flag is written last, so VF holds it even where x = F (D11). -/
theorem reg_finishAlu_flag : (s.finishAlu x v b).reg regF = flagByte b := by rw [reg_finishAlu, if_pos rfl]

theorem reg_finishAlu_result (hx : x ≠ regF) : (s.finishAlu x v b).reg x = v := by
  rw [reg_finishAlu, if_neg hx, if_pos rfl]

theorem finishAlu_regsExcept : RegsExcept [x, regF] s (s.finishAlu x v b) := by
  intro r hr
  obtain ⟨hx, hF⟩ : r ≠ x ∧ r ≠ regF := by rwa [List.mem_pair, not_or] at hr
  exact reg_finishAlu_ne s v b hx hF

variable {v b}

/-- A handler that ends with a flag of number `f` and a result of number `n` leaves these two and writes nothing else. -/
theorem completes_finishAlu {f n : Nat} (hflag : (flagByte b).toNat = f) (hresult : v.toNat = n) :
    Completes (.next (s.finishAlu x v b)) fun t =>
      (t.reg 0xF#4).toNat = f ∧ (x ≠ 0xF#4 → (t.reg x).toNat = n) ∧
      RegsExcept [x, 0xF#4] s t ∧ EndsAs .advanced s t ∧ UnchangedExcept [.V, .pc] s t := by
  refine completes_next ⟨?_, fun hx => ?_, finishAlu_regsExcept x s v b, ⟨rfl, rfl⟩, finishAlu_frame s x v b⟩
  · exact (congrArg BitVec.toNat (reg_finishAlu_flag x s v b)).trans hflag
  · exact (congrArg BitVec.toNat (reg_finishAlu_result x s v b hx)).trans hresult

end

/-! ### The statements -/

/-- Settles O19: each of the four handlers is one register write. -/
theorem logicWritesOnlyVx : Obligations.LogicWritesOnlyVx := by
  refine ⟨⟨encodes_ldReg, encodes_orReg, encodes_andReg, encodes_xorReg⟩, fun x y s => ⟨?_, ?_, ?_, ?_⟩⟩
  · exact completes_setReg x s (s.reg y)
  · exact completes_setReg x s (s.reg x ||| s.reg y)
  · exact completes_setReg x s (s.reg x &&& s.reg y)
  · exact completes_setReg x s (s.reg x ^^^ s.reg y)

/-- Settles O20: the flag is the carry of the exact sum, the result the sum of two bytes. -/
theorem addRegistersWithCarry : Obligations.AddRegistersWithCarry :=
  ⟨encodes_addReg, fun x y s =>
    completes_finishAlu x s (carryOut_flag (s.reg x) (s.reg y)) (BitVec.toNat_add (s.reg x) (s.reg y))⟩

/-- Settles O21: the flag is the absence of a borrow, the result the difference of two bytes. -/
theorem subtractWithBorrow : Obligations.SubtractWithBorrow :=
  ⟨encodes_subReg, fun x y s =>
    completes_finishAlu x s (noBorrow_flag (s.reg x) (s.reg y)) (sub_toNat (s.reg x) (s.reg y))⟩

/-- Settles O22: as O21 with the operands exchanged. -/
theorem subtractReversed : Obligations.SubtractReversed :=
  ⟨encodes_subn, fun x y s =>
    completes_finishAlu x s (noBorrow_flag (s.reg y) (s.reg x)) (sub_toNat (s.reg y) (s.reg x))⟩

/-- Settles O23: flag and result are the remainder and the quotient of the old Vx by 2, and Vy is not read. -/
theorem shiftRightEvictsLow : Obligations.ShiftRightEvictsLow :=
  ⟨encodes_shr, fun x _ s => completes_finishAlu x s (evictedLow_flag (s.reg x)) (shiftRight_one_toNat (s.reg x))⟩

/-- Settles O24: flag and result are bit 8 of the doubled Vx and the eight bits below it, and Vy is not read. -/
theorem shiftLeftEvictsHigh : Obligations.ShiftLeftEvictsHigh :=
  ⟨encodes_shl, fun x _ s => completes_finishAlu x s (evictedHigh_flag (s.reg x)) (shiftLeft_one_toNat (s.reg x))⟩

end Sys2Proof.Machine
end

section
/-! SUPPORT. The display (spec/44_display.md R150 to R155): what its words decode to, what drawing a sprite does to the pixels and when it
collides, and the same sprite drawn twice. -/

namespace Sys2Proof.Machine

/-! ### The words of the display (R83, R84) -/

theorem encodes_cls : Encodes 0xFFFF#16 0x00E0#16 fun _ => .cls := encodes_word rfl

theorem encodes_drw : Encodes 0xF000#16 0xD000#16 fun op => .drw op.x op.y op.n :=
  encodes_of_n0 (k := 0xD#4) rfl rfl fun op hn0 => by simp [decodeWord, hn0]

/-! ### A sprite on the framebuffer (R152, R154)

The sprite has the rows `f 0` to `f (n - 1)` and its top left corner at column `vx` and row `vy`. -/

/-- `after` is `before` with the sprite XORed in: toggled where the sprite has a 1 bit, and outside it unchanged. -/
structure Blitted (f : Nat → Byte) (vx vy : Byte) (n : Nat) (before after : Screen) : Prop where
  inside : ∀ r c j, r < n → c < 8 → Hits vx vy r c j →
    Screen.get after j = (Screen.get before j ^^ spriteBit (f r) c)
  outside : ∀ j, (∀ r c, r < n → c < 8 → ¬ Hits vx vy r c j) → Screen.get after j = Screen.get before j

/-- Some 1 bit of the sprite falls on a lit pixel. -/
def Collides (f : Nat → Byte) (vx vy : Byte) (n : Nat) (scr : Screen) : Prop :=
  ∃ r c j, r < n ∧ c < 8 ∧ Hits vx vy r c j ∧ Screen.get scr j = true ∧ spriteBit (f r) c = true

/-- `Hits` by the index formula of R150. -/
theorem hits_iff {vx vy : Byte} {r c : Nat} {j : Fin 2048} :
    Hits vx vy r c j ↔ j.val = (vy.toNat + r) % 32 * 64 + (vx.toNat + c) % 64 := Fin.ext_iff.trans eq_comm

theorem drawSprite_blitted (s : State) (vx vy : Byte) (n : Nibble) :
    Blitted s.spriteRow vx vy n.toNat s.screen (s.drawSprite vx vy n).screen := by
  obtain ⟨hinside, houtside, -⟩ := rows_spec ⟨s.screen, false⟩ vx vy s.spriteRow n.toNat n.isLt.le
  refine ⟨?_, houtside⟩
  rintro r c _ hr hc rfl
  exact hinside r c hr hc

theorem drawSprite_collision (s : State) (vx vy : Byte) (n : Nibble) :
    (s.drawSprite vx vy n).collision = true ↔ Collides s.spriteRow vx vy n.toNat s.screen := by
  obtain ⟨-, -, hcollision⟩ := rows_spec ⟨s.screen, false⟩ vx vy s.spriteRow n.toNat n.isLt.le
  exact hcollision.trans (by simp [Collides])

section
variable {f : Nat → Byte} {vx vy : Byte} {n : Nat} {before drawn redrawn : Screen}

/-- A blit changes no pixel outside the sprite. -/
theorem Blitted.exists_hits_of_changed (h : Blitted f vx vy n before drawn) {j : Fin 2048}
    (hne : Screen.get drawn j ≠ Screen.get before j) : ∃ r c, r < n ∧ c < 8 ∧ Hits vx vy r c j := by
  by_contra hnone
  exact hne (h.outside j fun r c hr hc hhit => hnone ⟨r, c, hr, hc, hhit⟩)

/-- XOR is its own inverse: a second blit of the sprite undoes the first (R155). -/
theorem Blitted.twice (h₁ : Blitted f vx vy n before drawn) (h₂ : Blitted f vx vy n drawn redrawn) (j : Fin 2048) :
    Screen.get redrawn j = Screen.get before j := by
  by_cases hj : ∃ r c, r < n ∧ c < 8 ∧ Hits vx vy r c j
  · obtain ⟨r, c, hr, hc, hhit⟩ := hj
    rw [h₂.inside r c j hr hc hhit, h₁.inside r c j hr hc hhit, Bool.xor_assoc, Bool.xor_self, Bool.xor_false]
  · exact (not_not.mp (mt h₂.exists_hits_of_changed hj)).trans (not_not.mp (mt h₁.exists_hits_of_changed hj))

/-- After a blit, a 1 bit of the sprite is on a lit pixel exactly if the blit lit a pixel (R155). -/
theorem Blitted.collides_iff (h : Blitted f vx vy n before drawn) :
    Collides f vx vy n drawn ↔ ∃ j, Screen.get before j = false ∧ Screen.get drawn j = true := by
  constructor
  · rintro ⟨r, c, j, hr, hc, hhit, hlit, hbit⟩
    have htoggle := h.inside r c j hr hc hhit
    rw [hbit, Bool.xor_true, hlit] at htoggle
    exact ⟨j, (Bool.not_eq_true' _).mp htoggle.symm, hlit⟩
  · rintro ⟨j, hdark, hlit⟩
    obtain ⟨r, c, hr, hc, hhit⟩ := h.exists_hits_of_changed (j := j) (by simp [hdark, hlit])
    have htoggle := h.inside r c j hr hc hhit
    rw [hdark, Bool.false_xor, hlit] at htoggle
    exact ⟨r, c, j, hr, hc, hhit, hlit, htoggle.symm⟩

end

/-! ### The handlers (R151, R153) -/

theorem reg_setFlag_self (s : State) (b : Bool) : (s.setFlag b).reg 0xF#4 = flagByte b := reg_setReg_self s regF (flagByte b)

theorem setFlag_regsExcept (s : State) (b : Bool) : RegsExcept [regF] s (s.setFlag b) := setReg_regsExcept regF s (flagByte b)

/-- `DXYN` blits the sprite at I, leaves the collision in VF, and writes nothing else. -/
theorem exec_drw_blits (x y : RegId) (n : Nibble) (s : State) :
    Completes (exec (.drw x y n) s) fun t =>
      Blitted s.spriteRow (s.reg x) (s.reg y) n.toNat s.screen t.screen ∧
      (t.reg 0xF#4 = 0#8 ∨ t.reg 0xF#4 = 1#8) ∧
      (t.reg 0xF#4 = 1#8 ↔ Collides s.spriteRow (s.reg x) (s.reg y) n.toNat s.screen) ∧
      RegsExcept [0xF#4] s t ∧ EndsAs .advanced s t ∧ UnchangedExcept [.V, .pc, .screen] s t := by
  have hframe := ((exec_frame (.drw x y n) s).of_next rfl).mono (ys := [.V, .pc, .screen]) (by simp [footprint])
  refine completes_next ⟨drawSprite_blitted s _ _ n, ?_, ?_, setFlag_regsExcept (s.setScreen _) _, ⟨rfl, rfl⟩, hframe⟩
  · rw [reg_complete, reg_setFlag_self]
    exact flagByte_bit _
  · rw [reg_complete, reg_setFlag_self, flagByte_eq_one, drawSprite_collision]

/-- A sprite is read from I and memory alone. -/
theorem spriteRow_of_frame {xs : List Elem} {s t : State} (h : UnchangedExcept xs s t) (hI : .I ∉ xs) (hram : .ram ∉ xs) :
    t.spriteRow = s.spriteRow := by
  have hI' : t.I = s.I := h .I hI
  have hram' : ∀ a, t.readByte a = s.readByte a := h .ram hram
  funext r
  rw [State.spriteRow, State.ea, hI', hram', State.spriteRow, State.ea]

/-! ### The statements -/

/-- Settles O25: no pixel of the dark screen is lit, and the footprint of `00E0` holds no register. -/
theorem clearScreen : Obligations.ClearScreen :=
  ⟨encodes_cls, fun s => completes_next
    ⟨Screen.get_dark, framebuffer_of_const _ false Screen.get_dark, ⟨rfl, rfl⟩,
      (exec_frame .cls s).of_next rfl⟩⟩

/-- Settles O26: the blit pixel by pixel, with each position given by its index. -/
theorem drawTogglesTheSprite : Obligations.DrawTogglesTheSprite := by
  refine ⟨encodes_drw, fun x y n s => (exec_drw_blits x y n s).imp ?_⟩
  rintro t ⟨hblit, hbit, hcollides, hrest⟩
  simp only [Collides, hits_iff] at hcollides
  refine ⟨fun r c j hr hc hj => hblit.inside r c j hr hc (hits_iff.mpr hj), fun j hj => ?_, hbit, hcollides,
    framebuffer_length t, framebuffer_getElem? t, hrest⟩
  exact hblit.outside j fun r c hr hc hhit => hj r c hr hc (hits_iff.mp hhit)

/-- Settles O27: the first draw keeps the coordinates, I and memory, so the second blits the same sprite at the same place. -/
theorem doubleDrawRestoresTheScreen : Obligations.DoubleDrawRestoresTheScreen := by
  intro x y n s hx hy
  refine (exec_drw_blits x y n s).imp ?_
  rintro t ⟨hfirst, -, -, hregs, -, hframe⟩
  refine (exec_drw_blits x y n t).imp ?_
  rintro u ⟨hsecond, -, hcollides, -⟩
  have hvx : t.reg x = s.reg x := hregs x (mt List.mem_singleton.mp hx)
  have hvy : t.reg y = s.reg y := hregs y (mt List.mem_singleton.mp hy)
  have hrows : t.spriteRow = s.spriteRow := spriteRow_of_frame hframe (by decide) (by decide)
  rw [hvx, hvy, hrows] at hsecond hcollides
  exact ⟨hfirst.twice hsecond, hcollides.trans hfirst.collides_iff⟩

end Sys2Proof.Machine
end

section
/-! SUPPORT. The keypad (spec/45_keypad.md R160 to R163): what its words decode to, the key a skip queries, and the two ends of the wait
for a key. -/

namespace Sys2Proof.Machine

/-! ### The words of the keypad (R83, R84) -/

/-- A row whose mask holds the major opcode and the low byte covers only words with these two. -/
theorem encodes_of_n0_nn {mask pattern : Word} {instr : Word → Instr} {k : Nibble} {b : Byte} (hmask : Word.n0 mask = 0xF#4)
    (hmaskNN : Word.nn mask = 0xFF#8) (hk : Word.n0 pattern = k) (hb : Word.nn pattern = b)
    (h : ∀ op : Word, op.n0 = k → op.nn = b → decodeWord op = some (instr op)) : Encodes mask pattern instr :=
  fun op hop => h op ((op.n0_of_mask mask pattern hmask hop).trans hk) ((op.nn_of_mask mask pattern hmaskNN hop).trans hb)

theorem encodes_skp : Encodes 0xF0FF#16 0xE09E#16 fun op => .skp op.x :=
  encodes_of_n0_nn (k := 0xE#4) (b := 0x9E#8) rfl rfl rfl rfl fun op hn0 hnn => by simp [decodeWord, decodeKey, hn0, hnn]

theorem encodes_sknp : Encodes 0xF0FF#16 0xE0A1#16 fun op => .sknp op.x :=
  encodes_of_n0_nn (k := 0xE#4) (b := 0xA1#8) rfl rfl rfl rfl fun op hn0 hnn => by simp [decodeWord, decodeKey, hn0, hnn]

theorem encodes_ldVxK : Encodes 0xF0FF#16 0xF00A#16 fun op => .ldVxK op.x := fun _ => decodeWord_of_ldVxK_mask

/-! ### The skips on a key (R160, R161) -/

/-- The low nibble of a byte numbers the key (D15). -/
theorem keyPressed_keyOf (s : State) (v : Byte) : s.keyPressed (keyOf v) = s.keys.getLsbD (v.toNat % 16) := by
  rw [State.keyPressed, keyOf_toNat]

theorem skipIf_not (b : Bool) : skipIf (!b) = if b = true then .advanced else .skipped := by cases b <;> rfl

section
variable (x : RegId) (s : State)

theorem exec_skp_ends : Completes (exec (.skp x) s) fun t =>
    EndsAs (if s.keys.getLsbD ((s.reg x).toNat % 16) = true then .skipped else .advanced) s t ∧ UnchangedExcept [.pc] s t :=
  keyPressed_keyOf s (s.reg x) ▸ completes_complete s _

theorem exec_sknp_ends : Completes (exec (.sknp x) s) fun t =>
    EndsAs (if s.keys.getLsbD ((s.reg x).toNat % 16) = true then .advanced else .skipped) s t ∧ UnchangedExcept [.pc] s t := by
  rw [← keyPressed_keyOf, ← skipIf_not]
  exact completes_complete s _

/-! ### The wait for a key (R162) -/

/-- A key event is stored and the machine runs on. -/
theorem exec_ldVxK_stores {k : Key} (h : s.keyEvent = some k) : Completes (exec (.ldVxK x) s) fun t =>
    t.reg x = k.setWidth 8 ∧ RegsExcept [x] s t ∧ t.runState = .running ∧ EndsAs .advanced s t ∧
    UnchangedExcept [.V, .pc, .runState] s t := by
  have hnext := exec_ldVxK_of_some s x k h
  have hframe := ((exec_frame (.ldVxK x) s).of_next hnext).mono (ys := [.V, .pc, .runState]) (by simp [footprint])
  exact ⟨_, hnext, reg_setReg_self s x _, setReg_regsExcept x s _, rfl, ⟨rfl, rfl⟩, hframe⟩

/-- Without an event the machine waits, at a pc that the completion does not move. -/
theorem exec_ldVxK_waits (h : s.keyEvent = none) : Completes (exec (.ldVxK x) s) fun t =>
    t.runState = .awaitingKey ∧ EndsAs .waiting s t ∧ UnchangedExcept [.runState] s t := by
  have hframe : UnchangedExcept [.pc, .runState] s ((s.setRunState .awaitingKey).complete .waiting) :=
    ((setRunState_frame s _).trans (complete_frame _ .waiting false)).mono (by simp)
  exact ⟨_, exec_ldVxK_of_none s x h, rfl, ⟨rfl, rfl⟩, hframe.of_agree rfl⟩

end

/-! ### The statements -/

/-- Settles O28: each skip completes with the outcome its query of the key picks. -/
theorem skipOnKey : Obligations.SkipOnKey :=
  ⟨encodes_skp, encodes_sknp, fun x s => ⟨exec_skp_ends x s, exec_sknp_ends x s⟩⟩

/-- Settles O29: the byte stored is the key's number, extended to eight bits (D34). -/
theorem waitForKey : Obligations.WaitForKey := by
  refine ⟨encodes_ldVxK, fun x s => ⟨fun k hkey => ?_, exec_ldVxK_waits x s⟩⟩
  refine (exec_ldVxK_stores x s hkey).imp ?_
  rintro t ⟨hreg, hrest⟩
  exact ⟨hreg ▸ BitVec.toNat_setWidth_of_le (by decide), hrest⟩

end Sys2Proof.Machine
end

section
/-! SUPPORT. The timers (spec/46_timers.md R170 to R174): what the words that read and write them decode to, what one tick does to a
timer and to the machine, and the ticks of the host's turn. -/

namespace Sys2Proof.Machine

/-! ### The words of the timers (R84) -/

theorem encodes_ldVxDt : Encodes 0xF0FF#16 0xF007#16 fun op => .ldVxDt op.x :=
  encodes_of_n0_nn (k := 0xF#4) (b := 0x07#8) rfl rfl rfl rfl fun op hn0 hnn => by simp [decodeWord, decodeMisc, hn0, hnn]

theorem encodes_ldDtVx : Encodes 0xF0FF#16 0xF015#16 fun op => .ldDtVx op.x :=
  encodes_of_n0_nn (k := 0xF#4) (b := 0x15#8) rfl rfl rfl rfl fun op hn0 hnn => by simp [decodeWord, decodeMisc, hn0, hnn]

theorem encodes_ldStVx : Encodes 0xF0FF#16 0xF018#16 fun op => .ldStVx op.x :=
  encodes_of_n0_nn (k := 0xF#4) (b := 0x18#8) rfl rfl rfl rfl fun op hn0 hnn => by simp [decodeWord, decodeMisc, hn0, hnn]

/-! ### The tick (R173) -/

/-- Truncated subtraction of numbers is the saturation at 0 (R27). -/
theorem tickTimer_toNat (t : Byte) : (tickTimer t).toNat = t.toNat - 1 := by
  unfold tickTimer
  split
  · next hzero => rw [hzero]; rfl
  · next hpos => bv_omega

theorem Agree.refl (e : Elem) (s : State) : Agree e s s := by cases e <;> simp [Agree]

theorem UnchangedExcept.refl (xs : List Elem) (s : State) : UnchangedExcept xs s s := fun e _ => Agree.refl e s

section
variable {s : State}

theorem tickTimers_of_halted (h : s.runState = .halted) : s.tickTimers = s := if_pos h

theorem tickTimers_of_not_halted (h : s.runState ≠ .halted) :
    s.tickTimers = (s.setDT (tickTimer s.DT)).setST (tickTimer s.ST) := if_neg h

theorem tickTimers_DT_toNat (h : s.runState ≠ .halted) : s.tickTimers.DT.toNat = s.DT.toNat - 1 := by
  rw [tickTimers_of_not_halted h]
  exact tickTimer_toNat s.DT

theorem tickTimers_ST_toNat (h : s.runState ≠ .halted) : s.tickTimers.ST.toNat = s.ST.toNat - 1 := by
  rw [tickTimers_of_not_halted h]
  exact tickTimer_toNat s.ST

variable (s)

theorem tickTimers_frame : UnchangedExcept [.DT, .ST] s s.tickTimers := by
  by_cases h : s.runState = .halted
  · rw [tickTimers_of_halted h]
    exact UnchangedExcept.refl _ s
  · rw [tickTimers_of_not_halted h]
    exact (setDT_frame s _).trans (setST_frame _ _)

@[simp] theorem tickTimers_result : s.tickTimers.result = s.result := by
  by_cases h : s.runState = .halted
  · rw [tickTimers_of_halted h]
  · rw [tickTimers_of_not_halted h]
    rfl

end

/-! ### The statements -/

/-- Settles O31: the handler is one register write of the old count. -/
theorem readDelayTimer : Obligations.ReadDelayTimer :=
  ⟨encodes_ldVxDt, fun x s => completes_setReg x s s.DT⟩

/-- Settles O32: `delay()` shows the count written, and a tick of the state that holds it takes one off. -/
theorem setDelayTimer : Obligations.SetDelayTimer :=
  ⟨encodes_ldDtVx, fun x s => completes_next ⟨rfl, rfl, ⟨rfl, rfl⟩,
    (setDT_frame s (s.reg x)).trans (complete_frame _ .advanced false), tickTimers_DT_toNat⟩⟩

/-- Settles O33: `sound()` shows the count written. -/
theorem setSoundTimer : Obligations.SetSoundTimer :=
  ⟨encodes_ldStVx, fun x s => completes_next ⟨rfl, rfl, ⟨rfl, rfl⟩,
    (setST_frame s (s.reg x)).trans (complete_frame _ .advanced false)⟩⟩

/-- Settles O34: a tick that runs takes one off each timer, and a tick in `Halted` is the identity (D26). -/
theorem tickCountsDown : Obligations.TickCountsDown := by
  refine fun s => completes_next ⟨tickTimers_frame s, tickTimers_result s, fun hrun => ?_, fun hhalt => ?_⟩
  · exact ⟨tickTimers_DT_toNat hrun, tickTimers_ST_toNat hrun⟩
  · rw [tickTimers_of_halted hhalt]
    exact ⟨rfl, rfl⟩

/-- Settles O43: the closed form of the host's ticks is the tick repeated, and the turn's count and its inputs are written apart. -/
theorem turnIsTicksThenStep : Obligations.TurnIsTicksThenStep := by
  intro s
  rw [step, State.hostTurn, tickMany_eq_iterate]
  rfl

end Sys2Proof.Machine
end

section
/-! SUPPORT. The index register and memory (spec/47_index_memory.md R180 to R186): what its words decode to, the bytes each store
leaves and the registers a load fills. -/

namespace Sys2Proof.Machine

/-! ### The words of the group (R83, R84) -/

/-- A row of the FX group decodes to what its function byte selects. -/
theorem encodes_misc {pattern : Word} {instr : RegId → Instr} (hn0 : Word.n0 pattern = 0xF#4)
    (hmisc : ∀ x, decodeMisc x (Word.nn pattern) = some (instr x)) : Encodes 0xF0FF#16 pattern fun op => instr op.x :=
  encodes_of_n0_nn rfl rfl hn0 rfl fun op hop hnn => by
    rw [← hmisc op.x, ← hnn]
    simp [decodeWord, hop]

theorem encodes_addI : Encodes 0xF0FF#16 0xF01E#16 fun op => .addI op.x := encodes_misc rfl fun _ => rfl

theorem encodes_ldF : Encodes 0xF0FF#16 0xF029#16 fun op => .ldF op.x := encodes_misc rfl fun _ => rfl

theorem encodes_ldB : Encodes 0xF0FF#16 0xF033#16 fun op => .ldB op.x := encodes_misc rfl fun _ => rfl

theorem encodes_storeRegs : Encodes 0xF0FF#16 0xF055#16 fun op => .storeRegs op.x := encodes_misc rfl fun _ => rfl

theorem encodes_loadRegs : Encodes 0xF0FF#16 0xF065#16 fun op => .loadRegs op.x := encodes_misc rfl fun _ => rfl

/-- A handler that left pc where it stood ends with pc moved by the outcome alone (R205). -/
theorem endsAs_complete {s t : State} {o : StepOutcome} (h : t.pc = s.pc) : EndsAs o s (t.complete o) :=
  ⟨congrArg o.nextPc h, rfl⟩

/-! ### The stores (R183, R184) -/

theorem MemoryAfterStore.readByte_ea {s t : State} {n k : Nat} {v : Nat → Byte} (h : MemoryAfterStore s n v t) (hk : k < n) :
    t.readByte (s.ea k) = v k := (h (s.ea k)).1 k hk rfl

section
variable (x : RegId) (s : State)

theorem exec_ldB_digits (hwf : s.ram.wf = true) : Completes (exec (.ldB x) s) fun t =>
    (t.readByte (s.ea 0)).toNat = (s.reg x).toNat / 100 ∧
    (t.readByte (s.ea 1)).toNat = (s.reg x).toNat / 10 % 10 ∧
    (t.readByte (s.ea 2)).toNat = (s.reg x).toNat % 10 := by
  refine (exec_ldB_memoryAfterStore x s hwf).imp fun t hstore => ⟨?_, ?_, ?_⟩
  · rw [hstore.readByte_ea (by decide), decimalDigit_zero, bcdHundreds_toNat]
  · rw [hstore.readByte_ea (by decide), decimalDigit_one, bcdTens_toNat]
  · rw [hstore.readByte_ea (by decide), decimalDigit_two, bcdOnes_toNat]

/-- Away from the three digits nothing is written, in any memory. -/
theorem exec_ldB_outside {a : Addr} (h₀ : a ≠ s.ea 0) (h₁ : a ≠ s.ea 1) (h₂ : a ≠ s.ea 2) :
    Completes (exec (.ldB x) s) fun t => t.readByte a = s.readByte a := by
  refine completes_next ?_
  rw [readByte_complete, readByte_writeByte_ne _ _ _ _ h₂, readByte_writeByte_ne _ _ _ _ h₁, readByte_writeByte_ne _ _ _ _ h₀]

theorem exec_storeRegs_block (hwf : s.ram.wf = true) : Completes (exec (.storeRegs x) s) fun t =>
    ∀ r : RegId, r.toNat ≤ x.toNat → t.readByte (s.ea r.toNat) = s.reg r := by
  refine (exec_storeRegs_memoryAfterStore x s hwf).imp fun t hstore r hr => ?_
  rw [hstore.readByte_ea (Nat.lt_succ_of_le hr), BitVec.ofNat_toNat, BitVec.setWidth_eq]

/-! ### The load (R185, R186) -/

theorem exec_loadRegs_block : Completes (exec (.loadRegs x) s) fun t =>
    (∀ r : RegId, r.toNat ≤ x.toNat → t.reg r = s.readByte (s.ea r.toNat)) ∧ t.I = s.indexPastBlock x := by
  refine completes_next ⟨fun r hr => ?_, rfl⟩
  rw [reg_complete, reg_setI, reg_loadBlock s _ (regId_lt x), if_pos (Nat.lt_succ_of_le hr)]

end

/-! ### The statements -/

/-- Settles O35: the mask of I is the remainder modulo 4096, and the footprint of `FX1E` holds no register. -/
theorem addToIndexWraps : Obligations.AddToIndexWraps :=
  ⟨encodes_addI, fun x s => completes_next
    ⟨indexPlus_toNat s (s.reg x), ⟨rfl, rfl⟩, (exec_frame (.addI x) s).of_next rfl⟩⟩

/-- Settles O36: five times a byte fits in I (D14). -/
theorem pointAtGlyph : Obligations.PointAtGlyph :=
  ⟨encodes_ldF, fun x s => completes_next
    ⟨glyphAddress_toNat (s.reg x), ⟨rfl, rfl⟩, (exec_frame (.ldF x) s).of_next rfl⟩⟩

/-- Settles O37: the three digits are at their addresses (D3), and the three writes reach no other. -/
theorem storeDecimalDigits : Obligations.StoreDecimalDigits :=
  ⟨encodes_ldB, fun x s => completes_next
    ⟨fun hwf => (exec_ldB_digits x s hwf).of_next rfl, ea_toNat s,
      fun _ h₀ h₁ h₂ => (exec_ldB_outside x s h₀ h₁ h₂).of_next rfl, ⟨rfl, rfl⟩, (exec_frame (.ldB x) s).of_next rfl⟩⟩

/-- Settles O38: the block is at its addresses (D3), I is past it under its mask (D13), and the store reaches nothing else. -/
theorem storeRegisterBlock : Obligations.StoreRegisterBlock :=
  ⟨encodes_storeRegs, fun x s => completes_next
    ⟨fun hwf => (exec_storeRegs_block x s hwf).of_next rfl, ea_toNat s,
      fun a ha => readByte_storeBlock_outside s _ a fun k hk => ha k (Nat.le_of_lt_succ hk),
      indexPastBlock_toNat s x, endsAs_complete (storeBlock_pc s _), (exec_frame (.storeRegs x) s).of_next rfl⟩⟩

/-- Settles O39: each register up to Vx is the byte at its effective address (D3), and the load reaches none above. -/
theorem loadRegisterBlock : Obligations.LoadRegisterBlock := by
  refine ⟨encodes_loadRegs, fun x s => ?_⟩
  obtain ⟨hblock, hI⟩ := (exec_loadRegs_block x s).of_next rfl
  exact completes_next ⟨hblock, fun _ hr => reg_loadBlock_above s hr, hI ▸ indexPastBlock_toNat s x,
    endsAs_complete (loadBlock_pc s _), (exec_frame (.loadRegs x) s).of_next rfl⟩

/-- Settles O40: from the same I the load reads the addresses the store wrote, and both move I past the same block. -/
theorem storeThenLoadRestores : Obligations.StoreThenLoadRestores := by
  refine fun x s hwf => completes_next fun u hram hI => (exec_loadRegs_block x u).imp ?_
  rintro w ⟨hload, hwI⟩
  have hstore := (exec_storeRegs_block x s hwf).of_next rfl
  have hea (k : Nat) : u.ea k = s.ea k := by rw [State.ea, State.ea, hI]
  refine ⟨fun r hr => ?_, ?_⟩
  · rw [hload r hr, hea, readByte_of_ram_eq hram, hstore r hr]
  · rw [hwI, State.indexPastBlock, hI]
    rfl

end Sys2Proof.Machine
end

section
/-! SUPPORT. The cycle, the operations of the host and the faults (spec/48_cycle_and_interfaces.md R200 to R214,
spec/60_exceptions.md R230 to R247): what a step does in each of its four cases, what `load_rom` does in each of its three, what stays
as it is in `Halted`, and the inputs an instruction does not read. -/

namespace Sys2Proof.Machine

/-! ### Next states -/

theorem exists_exec_eq_next (i : Instr) (s : State) : ∃ t, exec i s = .next t := by
  obtain ⟨t, ht, -⟩ := exec_frame i s
  exact ⟨t, ht⟩

theorem run_succ_of_step (M : Host.Core) {s t : M.State} (n : Nat) (h : M.step s = .next t) : M.run (n + 1) s = M.run n t := by
  rw [Host.Core.run, h]

/-! ### The cases of a step (R207)

`cycle_of_decodeWord` and `cycle_of_pc_gt` are the other two. -/

section
variable {s : State}

theorem cycle_of_halted (h : s.runState = .halted) : cycle s = .next s.refuseStep := if_pos h

/-- A running machine whose fetch is inside memory latches a word of no row of R84 and reports it (R240). -/
theorem cycle_of_decodeWord_none (hrun : s.runState ≠ .halted) (hpc : s.pc ≤ 0x0FFE#16) (hdec : decodeWord s.fetchWord = none) :
    cycle s = .next (unrecognizedOpcode s.latchOpcode) := by
  have hfetch : s.fetchable = true := decide_eq_true hpc
  rw [cycle, if_neg hrun, if_pos hfetch, execOpcode, latchOpcode_opcode, hdec]

theorem exists_cycle_eq_next (s : State) : ∃ t, cycle s = .next t := by
  by_cases hrun : s.runState = .halted
  · exact ⟨_, cycle_of_halted hrun⟩
  by_cases hpc : s.pc ≤ 0x0FFE#16
  · cases hdec : decodeWord s.fetchWord with
    | none => exact ⟨_, cycle_of_decodeWord_none hrun hpc hdec⟩
    | some i =>
      rw [cycle_of_decodeWord hrun hpc hdec]
      exact exists_exec_eq_next i s.latchOpcode
  · exact ⟨_, cycle_of_pc_gt hrun (BitVec.not_le.mp hpc)⟩

/-- The host's turn changes neither pc nor memory, so the turn's step runs the instruction that stood at pc before it. -/
theorem step_of_decodeWord {i : Instr} (hrun : s.runState ≠ .halted) (hpc : s.pc ≤ 0x0FFE#16)
    (hdec : decodeWord s.fetchWord = some i) : step s = exec i { s.hostTurn with opcode := s.fetchWord } :=
  cycle_of_decodeWord (s := s.hostTurn) hrun hpc hdec

theorem decodeWord_of_decode {lower higher : Byte} {i : Instr} {rest rest' : List Byte}
    (h : decode (lower :: higher :: rest) = .ok (i, rest')) : decodeWord (opcodeOfBytes lower higher) = some i := by
  cases hdec : decodeWord (opcodeOfBytes lower higher) with
  | none => simp [decode, hdec] at h
  | some j =>
    rw [decode_of_decodeWord rest hdec] at h
    cases h
    rfl

/-! ### The cases of `load_rom` (R202, R213, R235) -/

theorem loadRom_of_halted (data : List Byte) (h : s.runState = .halted) : s.loadRom data = (s, .err s.fault none) := if_pos h

theorem loadRom_of_fits {data : List Byte} (hrun : s.runState ≠ .halted) (hlen : data.length ≤ romMax) :
    s.loadRom data = ({ s with ram := s.ram.writeAll 0x200 data }, .ok) := by
  rw [State.loadRom, if_neg hrun, if_neg (Nat.not_lt.mpr hlen)]

theorem loadRom_of_too_large {data : List Byte} (hrun : s.runState ≠ .halted) (hlen : romMax < data.length) :
    s.loadRom data = (s.halt .romTooLarge, .err .romTooLarge (some data.length)) := by
  rw [State.loadRom, if_neg hrun, if_pos hlen]

/-- The state and the result of the operation are the two parts of the load's answer. -/
theorem apply_loadRom_of_eq {data : List Byte} {t : State} {r : LoadResult} (h : s.loadRom data = (t, r)) :
    (HostOp.loadRom data).apply s = .next t ∧ (s.loadRom data).2 = r := by
  rw [HostOp.apply, h]
  exact ⟨rfl, rfl⟩

variable (s)

theorem setRam_frame (m : Memory) : UnchangedExcept [.ram] s { s with ram := m } := by
  intro e he
  cases e <;> simp [Agree, State.reg] at he ⊢

theorem halt_frame (f : FaultCode) : UnchangedExcept [.runState, .fault] s (s.halt f) := by
  intro e he
  cases e <;> simp [Agree] at he ⊢

/-! ### Halted (R213, R238) -/

theorem refuseStep_frame : UnchangedExcept [] s s.refuseStep := by
  intro e _
  cases e <;> simp [Agree]

/-- In `Halted` the ticks of the turn have no effect (D26), so only new inputs are presented. -/
theorem hostTurn_frame_of_halted (h : s.runState = .halted) : UnchangedExcept [.inputs] s s.hostTurn := by
  intro e he
  cases e <;> simp [Agree, h] at he ⊢

theorem step_of_halted (h : s.runState = .halted) : step s = .next s.hostTurn.refuseStep := cycle_of_halted h

/-- The frame of one turn in `Halted`. -/
theorem halted_turn_frame (h : s.runState = .halted) : UnchangedExcept [.inputs] s s.hostTurn.refuseStep :=
  (hostTurn_frame_of_halted s h).trans (refuseStep_frame _)

/-! ### The fault entry (R236) -/

theorem faulted_raise (f : FaultCode) : Faulted f s (s.raise f) := ⟨rfl, rfl, rfl, raise_frame s f⟩

end

/-! ### Inputs an instruction does not read (R203) -/

section
variable (s : State) (inp : StepInputs)

theorem storeBlock_present (n : Nat) : (s.present inp).storeBlock n = (s.storeBlock n).present inp := by
  induction n with
  | zero => rfl
  | succ k ih =>
    rw [State.storeBlock, ih]
    rfl

theorem loadBlock_present (n : Nat) : (s.present inp).loadBlock n = (s.loadBlock n).present inp := by
  induction n with
  | zero => rfl
  | succ k ih =>
    rw [State.loadBlock, ih]
    rfl

variable {s inp}

theorem keyPressed_present (h : inp.keys = s.keys) (k : Key) : (s.present inp).keyPressed k = s.keyPressed k :=
  congrArg (fun keys => keys.getLsbD k.toNat) h

/-- Presenting other inputs before the instruction and after it is the same, where the instruction reads none that differs. -/
theorem exec_present (i : Instr) (hkeys : readsKeys i → inp.keys = s.keys)
    (hevent : readsKeyEvent i → inp.keyEvent = s.keyEvent) (hrnd : readsRnd i → inp.rnd = s.rnd) :
    Completes (exec i s) fun t => exec i (s.present inp) = .next (t.present inp) := by
  cases i with
  | skp x =>
    refine completes_next ?_
    rw [exec, execSkp, keyPressed_present (hkeys ⟨x, .inl rfl⟩)]
    rfl
  | sknp x =>
    refine completes_next ?_
    rw [exec, execSknp, keyPressed_present (hkeys ⟨x, .inr rfl⟩)]
    rfl
  | rnd x nn =>
    refine completes_next ?_
    rw [exec, execRnd, present_rnd, hrnd ⟨x, nn, rfl⟩]
    rfl
  | ldVxK x =>
    have hpresent : (s.present inp).keyEvent = s.keyEvent := hevent ⟨x, rfl⟩
    exact exec_ldVxK_cases
      (fun hnone => exec_ldVxK_of_none (s.present inp) x (hpresent.trans hnone))
      (fun k hsome => exec_ldVxK_of_some (s.present inp) x k (hpresent.trans hsome))
  | ret =>
    exact exec_ret_cases (exec_ret_of_empty (s.present inp)) (exec_ret_of_pos (s.present inp))
  | call nnn =>
    exact exec_call_cases (exec_call_of_full (s.present inp) nnn) (exec_call_of_free (s.present inp) nnn)
  | storeRegs x =>
    refine completes_next ?_
    rw [exec, execStoreRegs, storeBlock_present]
    rfl
  | loadRegs x =>
    refine completes_next ?_
    rw [exec, execLoadRegs, loadBlock_present]
    rfl
  | _ => exact completes_next rfl

end

/-! ### The statements -/

/-- Settles O55: presenting the inputs commutes with the instruction. -/
theorem unreadInputsDoNotMatter : Obligations.UnreadInputsDoNotMatter :=
  fun i _ _ _ hkeys hevent hrnd ht => (exec_present i hkeys hevent hrnd).of_next ht

/-- Settles O49: the run of writes holds byte j at its address and reaches no other; a ROM that does not fit only halts. -/
theorem loadRomCopiesOrFaults : Obligations.LoadRomCopiesOrFaults := by
  refine fun s data hrun hwf => ⟨fun hlen => ?_, fun hlen => ?_⟩
  · obtain ⟨hnext, hok⟩ := apply_loadRom_of_eq (loadRom_of_fits hrun hlen)
    refine ⟨hok, _, hnext, fun a j ha => ?_, fun a ha => ?_, setRam_frame s _⟩
    · rw [State.readByte, ha]
      exact s.ram.read_writeAll_in 0x200 data hwf (by omega) j.val j.isLt
    · rcases ha with hbelow | habove
      · exact s.ram.read_writeAll_lt 0x200 a.toNat data hbelow
      · exact s.ram.read_writeAll_ge 0x200 a.toNat data habove
  · obtain ⟨hnext, herr⟩ := apply_loadRom_of_eq (loadRom_of_too_large hrun hlen)
    exact ⟨herr, _, hnext, rfl, rfl, halt_frame s _⟩

/-- Settles O46, operation by operation: a step presents its inputs and is refused, and the others are the identity. -/
theorem haltedIsFrozen : Obligations.HaltedIsFrozen := by
  intro s op hhalt hop
  cases op with
  | new => exact absurd rfl hop
  | loadRom data =>
    obtain ⟨hnext, herr⟩ := apply_loadRom_of_eq (loadRom_of_halted data hhalt)
    refine ⟨s, hnext, UnchangedExcept.refl _ s, nofun, ?_⟩
    rintro _ ⟨rfl⟩
    exact herr
  | step inp =>
    have hframe := (present_frame s inp).trans (refuseStep_frame _)
    exact ⟨_, cycle_of_halted (s := s.present inp) hhalt, hframe, fun _ _ => rfl, nofun⟩
  | tickTimers =>
    exact ⟨s, congrArg _ (tickTimers_of_halted hhalt), UnchangedExcept.refl _ s, nofun, nofun⟩

/-- Settles O47, by induction on the number of turns: a turn in `Halted` changes nothing, so the next one is in `Halted` too. -/
theorem haltedRunChangesNothing : Obligations.HaltedRunChangesNothing := by
  intro n
  induction n with
  | zero => exact fun s _ => ⟨s, rfl, UnchangedExcept.refl _ s⟩
  | succ n ih =>
    intro s hhalt
    obtain ⟨t, hrun, hframe⟩ := ih s.hostTurn.refuseStep hhalt
    refine ⟨t, (run_succ_of_step core n (step_of_halted s hhalt)).trans hrun, ?_⟩
    exact ((halted_turn_frame s hhalt).trans hframe).mono (by simp)

/-- Settles O30: the invariant has the `FX0A` that `opcode` holds stand at pc, so the step fetches it again. -/
theorem awaitingStepWaitsAgain : Obligations.AwaitingStepWaitsAgain := by
  intro s hinv hwait
  obtain ⟨hmask, hpc, hfetch⟩ := hinv.awaiting hwait
  have hrun : s.runState ≠ .halted := by simp [hwait]
  have hdec : decodeWord s.fetchWord = some (.ldVxK s.opcode.x) := by rw [hfetch, decodeWord_of_ldVxK_mask hmask]
  rw [step_of_decodeWord hrun hpc hdec, hfetch]

/-- Settles O56: every instruction has a footprint, and each case of a step has a next state. -/
theorem everyStepGoesOn : Obligations.EveryStepGoesOn :=
  ⟨exists_exec_eq_next, fun s => exists_cycle_eq_next s.hostTurn⟩

/-- Settles O44: the inputs are presented, the word is latched, and its report moves pc alone. -/
theorem unrecognizedOnlyAdvances : Obligations.UnrecognizedOnlyAdvances := by
  intro s inp hrun hpc hdec
  have hframe := (((present_frame s inp).trans (latchOpcode_frame _)).trans (complete_frame _ .advanced true)).mono
    (ys := [.opcode, .pc, .inputs]) (by simp)
  exact ⟨_, cycle_of_decodeWord_none (s := s.present inp) hrun hpc hdec, rfl, rfl, rfl, hframe⟩

/-- Settles O42: the two bytes are the word that the step fetches (D1). -/
theorem stepRunsTheDecodedInstruction : Obligations.StepRunsTheDecodedInstruction :=
  fun _ _ hrun hpc hdec => step_of_decodeWord hrun hpc (decodeWord_of_decode hdec)

/-- Settles O6: with nothing to pop the answer is the fault entry of R236. -/
theorem retOnEmptyStackFaults : Obligations.RetOnEmptyStackFaults :=
  fun s hsp => ⟨_, exec_ret_of_empty s hsp, faulted_raise s _⟩

/-- Settles O10: with no slot free the answer is the fault entry of R236. -/
theorem callOnFullStackFaults : Obligations.CallOnFullStackFaults :=
  fun nnn s hsp => ⟨_, exec_call_of_full s nnn hsp, faulted_raise s _⟩

end Sys2Proof.Machine
end
